-- ==== Sys2Proof/Word.lean ====
section
/-! DEFINITION. The words of the block: 32-bit registers and commands, bytes, the 15-bit LFSR value (00_scope.md R5, R6). -/

namespace Sys2Proof

/-- A 32-bit register or command word (00_scope.md R5 "Host register width"). -/
abbrev Word := BitVec 32

/-- A byte (00_scope.md R7). -/
abbrev Byte := BitVec 8

/-- A 15-bit LFSR state, which is also a seed (00_scope.md R5 `LFSR_W`, `SEED_MAX`). -/
abbrev Seed := BitVec 15

/-- An offset in the 16 KiB host window, 0x0000 to 0x3FFF (20_memory.md R50). -/
abbrev Offset := BitVec 14

end Sys2Proof
end

