-- ==== Sys2Proof/Machine/Operands.lean ====
section
/-! DEFINITION. The operand forms of the command word: what makes the fields of each format legal (30_encoding.md R82 to R86, R89).
The operands themselves are unsigned fields, used as they stand (R86). -/

namespace Sys2Proof.Machine

/-- The keystream buffer's size, also the payload length and the largest GEN_KS length (00_scope.md R5 `KS_MAX`, `PAY_LEN`). -/
abbrev ksMax : Nat := 2048

/-- Format N: c[27:0] must be zero (30_encoding.md R82). -/
def formatNLegal (mbz : BitVec 28) : Bool := mbz == 0

/-- Format S: c[27:16] and c[15] must be zero (30_encoding.md R83). -/
def formatSLegal (mbz : BitVec 12) (seed15 : BitVec 1) : Bool := mbz == 0 && seed15 == 0

/-- Format G: LEN at most 2048 and c[15] zero (30_encoding.md R84). -/
def formatGLegal (len : BitVec 12) (seed15 : BitVec 1) : Bool := decide (len.toNat ≤ ksMax) && seed15 == 0

/-- Format B: c[27:8] must be zero (30_encoding.md R85). -/
def formatBLegal (mbz : BitVec 20) : Bool := mbz == 0

end Sys2Proof.Machine
end

