-- ==== Sys2Proof/Syntax.lean ====
section
/-! DEFINITION. The command set, one constructor per row of spec/opcode_table.json. A row's decoder looks at OP alone
(30_encoding.md R87), so each constructor carries all the other bits of the word, the must-be-zero ones too: a word of a
defined OP with such a bit set is still that command and completes with INVALID_ARGUMENT (R89). DEDUCED, log entry 9. -/

namespace Sys2Proof

/-- A command word, by OP and format (30_encoding.md R82 to R88). `mbz` and `seed15` are the must-be-zero fields. -/
inductive Instr where
  /-- OP 0x0, format N (43_search_session.md R188). -/
  | nop (mbz : BitVec 28)
  /-- OP 0x1, format S (40_lfsr.md R110). -/
  | lfsrLoad (mbz : BitVec 12) (seed15 : BitVec 1) (seed : Seed)
  /-- OP 0x2, format N (40_lfsr.md R111). -/
  | lfsrStep (mbz : BitVec 28)
  /-- OP 0x3, format N (40_lfsr.md R112). -/
  | lfsrByte (mbz : BitVec 28)
  /-- OP 0x4, format G (40_lfsr.md R113). -/
  | genKs (len : BitVec 12) (seed15 : BitVec 1) (seed : Seed)
  /-- OP 0x5, format N (41_edc.md R136). -/
  | edcClear (mbz : BitVec 28)
  /-- OP 0x6, format B (41_edc.md R137). -/
  | edcByte (mbz : BitVec 20) (byte : Byte)
  /-- OP 0x7, format N (41_edc.md R138). -/
  | edcSector (mbz : BitVec 28)
  /-- OP 0x8, format N (42_decode.md R161): the command DECODE. -/
  | decodeSector (mbz : BitVec 28)
  /-- OP 0x9, format N (43_search_session.md R182). -/
  | search (mbz : BitVec 28)
  /-- OP 0xA, format S (43_search_session.md R186). -/
  | setSeed (mbz : BitVec 12) (seed15 : BitVec 1) (seed : Seed)
  /-- OP 0xB, format N (43_search_session.md R187). -/
  | clearSession (mbz : BitVec 28)
  /-- OP 0xC to 0xF: c[31:30] = 11, all other bits free (30_encoding.md R88). -/
  | reserved (low : BitVec 30)
  deriving DecidableEq, Repr

end Sys2Proof
end

