-- ==== Sys2Proof/WellFormed.lean ====
section
/-! DEFINITION. Which command words are legal (30_encoding.md R88, R89). -/

namespace Sys2Proof

/-- The word is a legal command: a defined OP with every field in range (30_encoding.md R88, R89). -/
def Instr.wf : Instr → Bool
  | .nop mbz => Machine.formatNLegal mbz
  | .lfsrLoad mbz seed15 _ => Machine.formatSLegal mbz seed15
  | .lfsrStep mbz => Machine.formatNLegal mbz
  | .lfsrByte mbz => Machine.formatNLegal mbz
  | .genKs len seed15 _ => Machine.formatGLegal len seed15
  | .edcClear mbz => Machine.formatNLegal mbz
  | .edcByte mbz _ => Machine.formatBLegal mbz
  | .edcSector mbz => Machine.formatNLegal mbz
  | .decodeSector mbz => Machine.formatNLegal mbz
  | .search mbz => Machine.formatNLegal mbz
  | .setSeed mbz seed15 _ => Machine.formatSLegal mbz seed15
  | .clearSession mbz => Machine.formatNLegal mbz
  | .reserved _ => false

/-- The word's OP is one of the reserved 0xC to 0xF (30_encoding.md R88). -/
def Instr.isReserved : Instr → Bool
  | .reserved _ => true
  | .nop _ | .lfsrLoad _ _ _ | .lfsrStep _ | .lfsrByte _ | .genKs _ _ _ | .edcClear _ | .edcByte _ _ | .edcSector _
  | .decodeSector _ | .search _ | .setSeed _ _ _ | .clearSession _ => false

end Sys2Proof
end

