-- ==== Sys2Proof/Decode.lean ====
section
/-! DEFINITION. Decoding a command word, total over all 2^32 words (30_encoding.md R81 to R93), and the encoder. -/

namespace Sys2Proof

/-- The command a word spells, by its OP alone (30_encoding.md R81, R87, mask 0xF0000000), with its fields pulled out (R82 to R86). -/
def decode (c : Word) : Instr :=
  match (c.extractLsb' 28 4).toNat with
  | 0x0 => .nop (c.extractLsb' 0 28)
  | 0x1 => .lfsrLoad (c.extractLsb' 16 12) (c.extractLsb' 15 1) (c.extractLsb' 0 15)
  | 0x2 => .lfsrStep (c.extractLsb' 0 28)
  | 0x3 => .lfsrByte (c.extractLsb' 0 28)
  | 0x4 => .genKs (c.extractLsb' 16 12) (c.extractLsb' 15 1) (c.extractLsb' 0 15)
  | 0x5 => .edcClear (c.extractLsb' 0 28)
  | 0x6 => .edcByte (c.extractLsb' 8 20) (c.extractLsb' 0 8)
  | 0x7 => .edcSector (c.extractLsb' 0 28)
  | 0x8 => .decodeSector (c.extractLsb' 0 28)
  | 0x9 => .search (c.extractLsb' 0 28)
  | 0xA => .setSeed (c.extractLsb' 16 12) (c.extractLsb' 15 1) (c.extractLsb' 0 15)
  | 0xB => .clearSession (c.extractLsb' 0 28)
  | _ => .reserved (c.extractLsb' 0 30)

/-- Why a word is no legal command (30_encoding.md R93). -/
inductive Rejection where
  /-- `Illegal`: a reserved OP; completes with ILLEGAL_COMMAND (R88). -/
  | illegal
  /-- `Invalid`: a must-be-zero bit set or LEN out of range; completes with INVALID_ARGUMENT (R89). -/
  | invalid
  deriving DecidableEq, Repr

/-- The decode procedure of 30_encoding.md R93: the legal command a word spells, or the name of its rejection. -/
def decodeLegal (c : Word) : Except Rejection Instr :=
  let i := decode c
  if i.isReserved then .error .illegal
  else if i.wf then .ok i
  else .error .invalid

/-- The word of a command, from the encoding templates of 30_encoding.md R87. -/
def encode : Instr → Word
  | .nop mbz => (0x0#4 ++ mbz : BitVec 32)
  | .lfsrLoad mbz seed15 seed => (0x1#4 ++ mbz ++ seed15 ++ seed : BitVec 32)
  | .lfsrStep mbz => (0x2#4 ++ mbz : BitVec 32)
  | .lfsrByte mbz => (0x3#4 ++ mbz : BitVec 32)
  | .genKs len seed15 seed => (0x4#4 ++ len ++ seed15 ++ seed : BitVec 32)
  | .edcClear mbz => (0x5#4 ++ mbz : BitVec 32)
  | .edcByte mbz byte => (0x6#4 ++ mbz ++ byte : BitVec 32)
  | .edcSector mbz => (0x7#4 ++ mbz : BitVec 32)
  | .decodeSector mbz => (0x8#4 ++ mbz : BitVec 32)
  | .search mbz => (0x9#4 ++ mbz : BitVec 32)
  | .setSeed mbz seed15 seed => (0xA#4 ++ mbz ++ seed15 ++ seed : BitVec 32)
  | .clearSession mbz => (0xB#4 ++ mbz : BitVec 32)
  | .reserved low => (0b11#2 ++ low : BitVec 32)

/-- A word with its bits numbered as spec/opcode_table.json numbers them. Every command is one 32-bit word
(30_encoding.md R80, R90), so there is nothing to read beyond 32 bits; bits from `nbits` up are zero. -/
def decodeTableWord (nbits w : Nat) : Option Instr :=
  if nbits ≤ 32 then some (decode (BitVec.ofNat 32 (w % 2 ^ nbits))) else none

end Sys2Proof
end

