-- ==== Sys2Proof/Machine/Bits.lean ====
section
/-! DEFINITION. Bit reversal, slices of byte sequences and the two byte orders (00_scope.md R6, R7; 20_memory.md R52, R53). -/

namespace Sys2Proof.Machine

/-- `rev32`: bit i moves to bit 31-i (41_edc.md R131). -/
def rev32 (x : Word) : Word := x.reverse

/-- `B[a:b]`, the half-open slice (00_scope.md R7). -/
def slice (bs : List Byte) (a b : Nat) : List Byte := (bs.drop a).take (b - a)

/-- `BE32` of four bytes, most significant first (00_scope.md R7, 20_memory.md R53). -/
def be32 (bs : List Byte) : Word := bs.foldl (fun acc b => (acc <<< 8) ||| b.setWidth 32) 0

/-- `BE32bytes(v)`: the four bytes of v, most significant first (42_decode.md R162). -/
def be32Bytes (v : Word) : List Byte :=
  [v.extractLsb' 24 8, v.extractLsb' 16 8, v.extractLsb' 8 8, v.extractLsb' 0 8]

/-- The word whose little-endian lanes are these four bytes (20_memory.md R52). -/
def le32 (b0 b1 b2 b3 : Byte) : Word := (b3 ++ b2 ++ b1 ++ b0 : BitVec 32)

/-- The four lanes of a word, lowest address first (20_memory.md R52). -/
def le32Bytes (v : Word) : List Byte :=
  [v.extractLsb' 0 8, v.extractLsb' 8 8, v.extractLsb' 16 8, v.extractLsb' 24 8]

/-- `A XOR B` on byte sequences (00_scope.md R7). -/
def xorBytes (as bs : List Byte) : List Byte := List.zipWith (· ^^^ ·) as bs

/-- `zeros(n)` (00_scope.md R7). -/
def zeros (n : Nat) : List Byte := List.replicate n 0

end Sys2Proof.Machine
end

