-- ==== Sys2Proof/Config.lean ====
section
/-! DEFINITION. What an implementation fixes (the spec's OPEN parameters) and the free values. Every constant here that the spec
leaves open has no body, so a statement about the machine holds whatever it is. -/

namespace Sys2Proof

/-- The five open parameters of the EDC integrator (41_edc.md R130). A pure function of the EDC takes them as an argument. -/
structure EdcParams where
  /-- `EDC_POLY`: the coefficients of x^31 down to x^0 of G(x). -/
  poly : Word
  /-- `EDC_INIT`: the accumulator's initial content. -/
  init : Word
  /-- `EDC_REFIN`: bytes enter least significant bit first when true. -/
  refin : Bool
  /-- `EDC_REFOUT`. -/
  refout : Bool
  /-- `EDC_XOROUT`. -/
  xorout : Word
  deriving DecidableEq, Repr, Inhabited

/-- The EDC parameters of this instance of the block: OPEN (41_edc.md R130, 92_eei_decisions.md D14), log entry 1. -/
opaque Config.edc : EdcParams

/-- Which 16 KiB slot of the host's address space holds the window: `BASE` is OPEN and 16 KiB aligned
(00_scope.md R5, 92_eei_decisions.md D2), log entry 11. -/
opaque Config.baseSlot : Nat

/-- A draw: what the n-th draw of a host read gives (20_memory.md R62 "any value of the location's width, with no law"), log entry 3. -/
opaque Config.draw : Nat → Word

/-- What a buffer byte that nothing has written since reset reads as at the n-th draw, for each window offset
(70_reset_and_hazards.md R241: a draw, never a fixed value), log entry 2. -/
opaque Config.unwrittenByte : Nat → Nat → Byte

end Sys2Proof
end

