-- ==== Sys2Proof/Machine/State.lean ====
section
/-! DEFINITION. The state of the block (10_state.md R20 to R38, 70_reset_and_hazards.md R240), the events that reach it, its one
fault, and the state after reset. -/

namespace Sys2Proof.Machine

/-- The buffers' storage, keyed by window offset: addresses strictly rising, one entry per written byte.
An address without an entry is unwritten (70_reset_and_hazards.md R241), log entries 2 and 17. -/
abbrev Memory := List Host.Cell

/-- The engine phase (10_state.md R23). -/
inductive Phase where
  /-- No command latched. -/
  | idle
  /-- `BUSY(c)`: the command word c is latched and has not completed. -/
  | busy (c : Word)
  deriving DecidableEq, Repr

/-- The result codes of `STATUS.ERR` (60_exceptions.md R210). Codes 5 to 7 are never produced, so they have no name here. -/
inductive Err where
  | ok
  | badChecksum
  | seedNotFound
  | invalidArgument
  | illegalCommand
  deriving DecidableEq, Repr

/-- What can reach the block from outside, and the engine's turn (10_state.md R20; 60_exceptions.md R219), log entry 4. -/
inductive Event where
  /-- `MemRead(off, n)` (20_memory.md R55). -/
  | read (n : Nat) (off : Offset)
  /-- `MemWrite(off, n, v)` (20_memory.md R56). An 8-bit write carries its byte in v[7:0], log entry 18. -/
  | write (n : Nat) (off : Offset) (v : Word)
  /-- The engine has its turn: a BUSY engine takes its completion step here (60_exceptions.md R213). -/
  | engine
  /-- The platform drives the RST input to this level (70_reset_and_hazards.md R240). -/
  | rst (level : Bool)
  deriving DecidableEq, Repr

/-- What the bus answered to the last host access; the model's own field, log entry 13. -/
inductive Reply where
  /-- No access has been answered since reset. -/
  | none
  /-- The data of a legal read; an 8-bit read gives a value from 0 to 255 (30_encoding.md R97). -/
  | data (v : Word)
  /-- A legal write was taken, ignored or dropped: none of these is an error (20_memory.md R56). -/
  | accepted
  /-- The access came while RST was asserted and was not served (70_reset_and_hazards.md R240). -/
  | unserved
  deriving DecidableEq, Repr

/-- Why an access is a bus error (20_memory.md R58). -/
inductive BusError where
  /-- The offset is in no region of the window (20_memory.md R51). -/
  | unmapped
  /-- A width 20_memory.md R54 does not allow there. -/
  | width
  /-- A 32-bit access whose offset is not a multiple of 4 (20_memory.md R57). -/
  | misaligned
  deriving DecidableEq, Repr

/-- The state of the block. The last three fields are the model's own. -/
structure State where
  /-- Engine phase (10_state.md R23); it is also STATUS.BUSY (R26). -/
  phase : Phase
  /-- CMD, the last latched word (10_state.md R25). -/
  cmd : Word
  /-- STATUS.DONE (10_state.md R26). -/
  done : Bool
  /-- STATUS.MATCH (10_state.md R26). -/
  matched : Bool
  /-- STATUS.OUTBIT (10_state.md R26). -/
  outbit : Bool
  /-- STATUS.SEED_VALID (10_state.md R26). -/
  seedValid : Bool
  /-- STATUS.ERR (10_state.md R26, 60_exceptions.md R210). -/
  err : Err
  /-- STATUS.OVERRUN (10_state.md R26, 60_exceptions.md R214). -/
  overrun : Bool
  /-- LFSR (10_state.md R27). -/
  lfsr : Seed
  /-- KSBYTE (10_state.md R28). -/
  ksbyte : Byte
  /-- EDC_ACC (10_state.md R29). -/
  edcAcc : Word
  /-- SEED (10_state.md R31). -/
  seed : Seed
  /-- KS_LEN (10_state.md R32). -/
  ksLen : BitVec 12
  /-- SCAN_COUNT (10_state.md R33). -/
  scanCount : BitVec 16
  /-- IRQ_EN[0], DONE_IE (10_state.md R34). -/
  irqEn : Bool
  /-- SECBUF, KSBUF and OUTBUF (10_state.md R36 to R38). -/
  mem : Memory
  /-- The level of the RST input (70_reset_and_hazards.md R240), log entry 7. -/
  rst : Bool
  /-- The events still to come, oldest first, log entry 4. -/
  inputs : List Event
  /-- The bus's answer to the last host access, log entry 13. -/
  reply : Reply
  /-- How many draws have been taken, log entry 14. -/
  draws : Nat
  deriving DecidableEq, Repr

/-- The faults of a step. -/
inductive Fault where
  /-- A host access that is a bus error: raised by a read or write event the window does not allow. The spec asks for exactly this
  ("A model treats a bus error as a *fault* of the host program", 20_memory.md R58), so it is safe. -/
  | busError (why : BusError)
  deriving DecidableEq, Repr

/-- The refusals of a step. -/
inductive Refusal where
  /-- An instruction with no meaning yet. No arm of exec raises it; it would be safe. -/
  | notModelled (mnemonic : String)
  deriving DecidableEq, Repr

/-- The state when RST is released (70_reset_and_hazards.md R240): every register at the value given there, every buffer byte
unwritten (R241). The model's own fields `inputs`, `reply` and `draws` are DESIGN CHOICE (log entries 4, 13, 14). -/
def State.reset : State where
  phase := .idle
  cmd := 0
  done := false
  matched := false
  outbit := false
  seedValid := false
  err := .ok
  overrun := false
  lfsr := 0
  ksbyte := 0
  edcAcc := Config.edc.init
  seed := 0
  ksLen := 0
  scanCount := 0
  irqEn := false
  mem := []
  rst := false
  inputs := []
  reply := .none
  draws := 0

end Sys2Proof.Machine
end

