-- ==== Sys2Proof/Machine/Ops.lean ====
section
/-! DEFINITION. The named operations over memory and registers that every meaning uses: reading and writing buffer bytes, issuing a
command, completing it, and reset. The block has no exceptions to take (60_exceptions.md R217): the completion step, with its error
code, stands in that place. -/

namespace Sys2Proof.Machine

/-! ### Memory -/

/-- The byte last written at an address, or none where nothing has been written since reset (70_reset_and_hazards.md R241). -/
def Memory.get : Memory → Nat → Option Byte
  | [], _ => none
  | (k, b) :: rest, a => if k = a then some b else Memory.get rest a

/-- The cells of a run of bytes from an address on. -/
def cellsFrom : Nat → List Byte → Memory
  | _, [] => []
  | a, b :: bs => (a, b) :: cellsFrom (a + 1) bs

/-- Write a run of bytes at consecutive addresses from `base` on. -/
def Memory.setBlock (m : Memory) (base : Nat) (bs : List Byte) : Memory :=
  m.filter (fun c => decide (c.1 < base)) ++ cellsFrom base bs ++ m.filter (fun c => decide (base + bs.length ≤ c.1))

/-- Every address of the list lies above `lo`. -/
def allAbove (lo : Nat) : Memory → Bool
  | [] => true
  | (k, _) :: rest => decide (lo < k) && allAbove lo rest

/-- The canonical form: addresses strictly rising. An unlisted address has no value to compare an entry with (log entry 17). -/
def Memory.wf : Memory → Bool
  | [] => true
  | (k, _) :: rest => allAbove k rest && Memory.wf rest

/-! ### Buffer bytes (20_memory.md R52) -/

/-- What the byte at a buffer offset reads as: the byte written, or a draw where nothing has been written
(70_reset_and_hazards.md R241, log entry 2). -/
def byteAt (s : State) (a : Nat) : Byte := (s.mem.get a).getD (Config.unwrittenByte s.draws a)

/-- The n bytes from offset `base` on, in index order (20_memory.md R52). -/
def bytesAt (s : State) (base n : Nat) : List Byte := (List.range n).map (fun i => byteAt s (base + i))

/-- Write bytes to the buffers from offset `base` on. -/
def storeBytes (base : Nat) (bs : List Byte) (s : State) : State := { s with mem := s.mem.setBlock base bs }

/-- Offset of `SECBUF[0]` (20_memory.md R52). -/
abbrev secBase : Nat := 0x1000

/-- Offset of `KSBUF[0]` (20_memory.md R52). -/
abbrev ksBase : Nat := 0x2000

/-- Offset of `OUTBUF[0]` (20_memory.md R52). -/
abbrev outBase : Nat := 0x3000

/-- The size of a sector image (00_scope.md R5 `SEC_LEN`). -/
abbrev secLen : Nat := 2064

/-- The bytes the checksum covers (00_scope.md R5 `EDC_SPAN`). -/
abbrev edcSpan : Nat := 2060

/-- The header's length (00_scope.md R5 `HDR_LEN`). -/
abbrev hdrLen : Nat := 12

/-- `SECBUF[0:2064]` (10_state.md R36). -/
def secbuf (s : State) : List Byte := bytesAt s secBase secLen

/-- `KSBUF[0:2048]` (10_state.md R37). -/
def ksbuf (s : State) : List Byte := bytesAt s ksBase 2048

/-- `OUTBUF[0:2064]` (10_state.md R38). -/
def outbuf (s : State) : List Byte := bytesAt s outBase secLen

/-! ### Issue and completion -/

/-- The engine is `BUSY(c)` for some c: STATUS.BUSY (10_state.md R23, R26). -/
def isBusy (s : State) : Bool :=
  match s.phase with
  | .idle => false
  | .busy _ => true

/-- A write to CMD: an IDLE engine latches the word, BUSY becomes 1 and DONE 0 (30_encoding.md R80, 10_state.md R25);
a BUSY one drops it and sets OVERRUN (60_exceptions.md R214). -/
def issue (c : Word) (s : State) : State :=
  match s.phase with
  | .idle => { s with phase := .busy c, cmd := c, done := false }
  | .busy _ => { s with overrun := true }

/-- The STATUS update that ends every command: ERR takes the code, BUSY becomes 0, DONE becomes 1 and the engine is IDLE
(60_exceptions.md R213). The draw counter moves on, so that no later read shares a draw with this command (log entry 14). -/
def finish (e : Err) (s : State) : State :=
  { s with err := e, done := true, phase := .idle, draws := s.draws + 1 }

/-- The completion step (60_exceptions.md R213): a command whose fields are not legal completes with INVALID_ARGUMENT and writes
nothing else (R211 step 2, R212); a legal one runs its rule, which gives its writes and a code. It never stops. -/
def complete (legal : Bool) (body : State → State × Err) (s : State) : Host.Outcome State Fault Refusal :=
  .next (if legal then finish (body s).2 (body s).1 else finish .invalidArgument s)

/-! ### Reset -/

/-- RST is released: the state of 70_reset_and_hazards.md R240. The events still to come are not the block's, and the draw
counter moves on, so that unwritten bytes are drawn afresh (log entries 2, 4, 14). -/
def releaseReset (s : State) : State := { State.reset with inputs := s.inputs, draws := s.draws + 1 }

end Sys2Proof.Machine
end

