-- ==== Sys2Proof/Machine/Edc.lean ====
section
/-! DEFINITION. The EDC-32 checksum calculator (41_edc.md): the parameterised integrator and the commands EDC_CLEAR, EDC_BYTE and
EDC_SECTOR. The pure functions take the five open parameters as an argument (41_edc.md R130); the commands use the instance's. -/

namespace Sys2Proof.Machine

/-! ### The EDC function -/

/-- One of the eight shifts of `STEP`, most significant bit first (41_edc.md R131, EDC_REFIN false). -/
def edcShiftLeft (poly a : Word) : Word := if a.getLsbD 31 then (a <<< 1) ^^^ poly else a <<< 1

/-- One of the eight shifts of `STEP`, least significant bit first (41_edc.md R131, EDC_REFIN true). -/
def edcShiftRight (poly a : Word) : Word := if a.getLsbD 0 then (a >>> 1) ^^^ rev32 poly else a >>> 1

/-- Apply f n times: "repeat 8 times" (41_edc.md R131). -/
def repeatWord (f : Word → Word) : Nat → Word → Word
  | 0, a => a
  | n + 1, a => repeatWord f n (f a)

/-- `STEP(a, b)`: one byte into the accumulator (41_edc.md R131). -/
def edcStep (p : EdcParams) (a : Word) (b : Byte) : Word :=
  if p.refin then repeatWord (edcShiftRight p.poly) 8 (a ^^^ b.setWidth 32)
  else repeatWord (edcShiftLeft p.poly) 8 (a ^^^ (b.setWidth 32 <<< 24))

/-- `FINAL(a)`, the output transform (41_edc.md R132). -/
def edcFinal (p : EdcParams) (a : Word) : Word := (if p.refout != p.refin then rev32 a else a) ^^^ p.xorout

/-- `fold(a, B)`, bytes in index order (41_edc.md R133). -/
def edcFold (p : EdcParams) (a : Word) : List Byte → Word
  | [] => a
  | b :: bs => edcFold p (edcStep p a b) bs

/-- `EDC(B)` (41_edc.md R133). -/
def edc (p : EdcParams) (bs : List Byte) : Word := edcFinal p (edcFold p p.init bs)

/-- EDC_OUT, which always reads `FINAL(EDC_ACC)` (10_state.md R30). -/
def edcOut (s : State) : Word := edcFinal Config.edc s.edcAcc

/-! ### EDC_CLEAR (41_edc.md R136) -/

/-- `EDC_ACC <- EDC_INIT`. -/
def edcClearBody (p : EdcParams) (s : State) : State × Err := ({ s with edcAcc := p.init }, .ok)

/-- EDC_CLEAR (41_edc.md R136). -/
def execEdcClear (mbz : BitVec 28) (s : State) : Host.Outcome State Fault Refusal :=
  complete (formatNLegal mbz) (edcClearBody Config.edc) s

/-! ### EDC_BYTE (41_edc.md R137) -/

/-- `EDC_ACC <- STEP(EDC_ACC, byte)`. -/
def edcByteBody (p : EdcParams) (byte : Byte) (s : State) : State × Err :=
  ({ s with edcAcc := edcStep p s.edcAcc byte }, .ok)

/-- EDC_BYTE (41_edc.md R137). -/
def execEdcByte (mbz : BitVec 20) (byte : Byte) (s : State) : Host.Outcome State Fault Refusal :=
  complete (formatBLegal mbz) (edcByteBody Config.edc byte) s

/-! ### EDC_SECTOR (41_edc.md R138) -/

/-- The accumulator EDC_SECTOR leaves for a sector image: from EDC_INIT over bytes 0 to 2059 (41_edc.md R138). -/
def sectorAcc (p : EdcParams) (img : List Byte) : Word := edcFold p p.init (slice img 0 edcSpan)

/-- The trailing checksum of a sector image (10_state.md R36, 20_memory.md R53). -/
def trailing (img : List Byte) : Word := be32 (slice img edcSpan secLen)

/-- `EDC_ACC <- a; STATUS.MATCH <- (FINAL(a) = BE32(SECBUF[2060:2064]))`; a mismatch is no error (41_edc.md R138). -/
def edcSectorBody (p : EdcParams) (s : State) : State × Err :=
  ({ s with
      edcAcc := sectorAcc p (secbuf s)
      matched := edcFinal p (sectorAcc p (secbuf s)) == trailing (secbuf s) }, .ok)

/-- EDC_SECTOR (41_edc.md R138). -/
def execEdcSector (mbz : BitVec 28) (s : State) : Host.Outcome State Fault Refusal :=
  complete (formatNLegal mbz) (edcSectorBody Config.edc) s

end Sys2Proof.Machine
end

