-- ==== Sys2Proof/Machine/Flags.lean ====
section
/-! DEFINITION. The STATUS word, its codes, its write-1-to-clear bits, and the interrupt line (10_state.md R26, R34, R35;
60_exceptions.md R210, R215, R216). -/

namespace Sys2Proof.Machine

/-- The code of a result in `STATUS.ERR` (60_exceptions.md R210). -/
def errCode : Err → BitVec 3
  | .ok => 0
  | .badChecksum => 1
  | .seedNotFound => 2
  | .invalidArgument => 3
  | .illegalCommand => 4

/-- The STATUS word from its fields; reserved bits read 0 (10_state.md R26, R35). -/
def packStatus (busy done matched outbit seedValid : Bool) (err : BitVec 3) (overrun : Bool) : Word :=
  (0#15 ++ BitVec.ofBool overrun ++ 0#5 ++ err ++ 0#3 ++ BitVec.ofBool seedValid ++ BitVec.ofBool outbit
    ++ BitVec.ofBool matched ++ BitVec.ofBool done ++ BitVec.ofBool busy : BitVec 32)

/-- STATUS as it stands (10_state.md R26). -/
def statusWord (s : State) : Word :=
  packStatus (isBusy s) s.done s.matched s.outbit s.seedValid (errCode s.err) s.overrun

/-- A host write to STATUS clears DONE where bit 1 is 1 and OVERRUN where bit 16 is 1; nothing else (10_state.md R26). -/
def writeStatus (v : Word) (s : State) : State :=
  { s with done := s.done && !v.getLsbD 1, overrun := s.overrun && !v.getLsbD 16 }

/-- A host write to IRQ_EN stores bit 0 (10_state.md R34, 20_memory.md R56). -/
def writeIrqEn (v : Word) (s : State) : State := { s with irqEn := v.getLsbD 0 }

/-- The IRQ output, `STATUS.DONE & IRQ_EN[0]` (60_exceptions.md R215). -/
def irqLine (s : State) : Bool := s.done && s.irqEn

end Sys2Proof.Machine
end

