-- ==== Sys2Proof/Machine/Window.lean ====
section
/-! DEFINITION. The host window: its map, and which accesses are legal (10_state.md R24; 20_memory.md R50, R51, R54, R57, R58). -/

namespace Sys2Proof.Machine

/-- The registers (10_state.md R24). -/
inductive Reg where
  | cmd | status | lfsr | ksbyte | edcAcc | edcOut | seed | ksLen | scanCount | irqEn
  deriving DecidableEq, Repr

/-- The register at a window offset (10_state.md R24). -/
def regAt : Nat → Option Reg
  | 0x000 => some .cmd
  | 0x004 => some .status
  | 0x008 => some .lfsr
  | 0x00C => some .ksbyte
  | 0x010 => some .edcAcc
  | 0x014 => some .edcOut
  | 0x018 => some .seed
  | 0x01C => some .ksLen
  | 0x020 => some .scanCount
  | 0x024 => some .irqEn
  | _ => none

/-- The buffers (10_state.md R36 to R38). -/
inductive Buf where
  | sec | ks | out
  deriving DecidableEq, Repr

/-- The regions of the window (20_memory.md R51). -/
inductive Region where
  | regs
  | buf (b : Buf)
  | unmapped
  deriving DecidableEq, Repr

/-- The window map (20_memory.md R51). -/
def region (a : Nat) : Region :=
  if a < 0x28 then .regs
  else if 0x1000 ≤ a ∧ a < 0x1810 then .buf .sec
  else if 0x2000 ≤ a ∧ a < 0x2800 then .buf .ks
  else if 0x3000 ≤ a ∧ a < 0x3810 then .buf .out
  else .unmapped

/-- What a legal access reaches: a register, one byte of a buffer, or four bytes of a buffer, at a window offset. -/
inductive Target where
  | reg (r : Reg)
  | byte (b : Buf) (a : Nat)
  | word (b : Buf) (a : Nat)
  deriving DecidableEq, Repr

/-- What an access of n bytes at an offset reaches, or the kind of bus error it is (20_memory.md R54, R57, R58). -/
def resolve (n : Nat) (off : Offset) : Except BusError Target :=
  match region off.toNat with
  | .unmapped => .error .unmapped
  | .regs =>
    if n = 4 then
      match regAt off.toNat with
      | some r => .ok (.reg r)
      | none => .error .misaligned
    else .error .width
  | .buf b =>
    if n = 1 then .ok (.byte b off.toNat)
    else if n = 4 then
      if off.toNat % 4 = 0 then .ok (.word b off.toNat) else .error .misaligned
    else .error .width

/-- The host address of a window offset, `BASE + offset` with BASE 16 KiB aligned (20_memory.md R50), log entry 11. -/
def hostAddress (off : Offset) : Nat := Config.baseSlot * 0x4000 + off.toNat

/-- The window offset of a host address, if it lies in the window (20_memory.md R50), log entry 11. -/
def windowOffset (addr : Nat) : Option Offset :=
  if addr / 0x4000 = Config.baseSlot then some (BitVec.ofNat 14 addr) else none

end Sys2Proof.Machine
end

