-- ==== Sys2Proof/Machine/Bus.lean ====
section
/-! DEFINITION. Host reads and writes (20_memory.md R55, R56), and what they do while a command runs (R62 to R64;
60_exceptions.md R214). -/

namespace Sys2Proof.Machine

/-! ### Write sets (20_memory.md R64) -/

/-- The locations a write set names (20_memory.md R64). BUSY, DONE and ERR are in every write set and have no name here. -/
inductive Loc where
  | lfsr | ksbyte | edcAcc | edcOut | seed | ksLen | scanCount
  | matchFlag | outbitFlag | seedValidFlag
  | ksbuf | outbuf
  deriving DecidableEq, Repr

/-- The write set of a command, by its OP, whether or not its fields are legal (20_memory.md R64). -/
def writeSet : Instr → List Loc
  | .nop _ => []
  | .lfsrLoad _ _ _ => [.lfsr]
  | .lfsrStep _ => [.lfsr, .outbitFlag]
  | .lfsrByte _ => [.lfsr, .ksbyte]
  | .genKs _ _ _ => [.lfsr, .ksbuf, .ksLen]
  | .edcClear _ => [.edcAcc, .edcOut]
  | .edcByte _ _ => [.edcAcc, .edcOut]
  | .edcSector _ => [.edcAcc, .edcOut, .matchFlag]
  | .decodeSector _ => [.edcAcc, .edcOut, .matchFlag, .outbuf]
  | .search _ => [.scanCount, .matchFlag, .seed, .seedValidFlag, .ksbuf, .ksLen]
  | .setSeed _ _ _ => [.seed, .seedValidFlag, .ksbuf, .ksLen]
  | .clearSession _ => [.seed, .seedValidFlag, .scanCount]
  | .reserved _ => []

/-- The locations the running command may write: none while IDLE (20_memory.md R62). -/
def busySet (s : State) : List Loc :=
  match s.phase with
  | .idle => []
  | .busy c => writeSet (decode c)

/-! ### Reads -/

/-- The draw the next host read takes (20_memory.md R62). -/
def drawWord (s : State) : Word := Config.draw s.draws

/-- A register field of w bits: its value, or a draw of its width while the running command may write it (20_memory.md R62);
the bits above the field read 0 (10_state.md R35, log entry 3). -/
def readField {w : Nat} (l : Loc) (v : BitVec w) (s : State) : Word :=
  if l ∈ busySet s then ((drawWord s).setWidth w).setWidth 32 else v.setWidth 32

/-- A STATUS flag: its value, or the draw's bit k while the running command may write it (20_memory.md R62). -/
def readFlag (l : Loc) (k : Nat) (v : Bool) (s : State) : Bool :=
  if l ∈ busySet s then (drawWord s).getLsbD k else v

/-- STATUS as the host reads it: while BUSY, BUSY reads 1, DONE 0, OVERRUN its value, ERR a draw, and MATCH, OUTBIT and SEED_VALID
draws where the running command may write them (20_memory.md R62). -/
def readStatus (s : State) : Word :=
  packStatus (isBusy s) (!isBusy s && s.done) (readFlag .matchFlag 2 s.matched s) (readFlag .outbitFlag 3 s.outbit s)
    (readFlag .seedValidFlag 4 s.seedValid s) (if isBusy s then (drawWord s).extractLsb' 8 3 else errCode s.err) s.overrun

/-- What a register reads as (10_state.md R25 to R35, 20_memory.md R55, R62). -/
def readReg (r : Reg) (s : State) : Word :=
  match r with
  | .cmd => s.cmd
  | .status => readStatus s
  | .lfsr => readField .lfsr s.lfsr s
  | .ksbyte => readField .ksbyte s.ksbyte s
  | .edcAcc => readField .edcAcc s.edcAcc s
  | .edcOut => readField .edcOut (edcOut s) s
  | .seed => readField .seed s.seed s
  | .ksLen => readField .ksLen s.ksLen s
  | .scanCount => readField .scanCount s.scanCount s
  | .irqEn => (BitVec.ofBool s.irqEn).setWidth 32

/-- The running command may write this buffer; no command writes SECBUF (20_memory.md R64). -/
def bufBusy (b : Buf) (s : State) : Bool :=
  match b with
  | .sec => false
  | .ks => decide (Loc.ksbuf ∈ busySet s)
  | .out => decide (Loc.outbuf ∈ busySet s)

/-- What a legal read returns (20_memory.md R52, R55, R62). -/
def readTarget (t : Target) (s : State) : Word :=
  match t with
  | .reg r => readReg r s
  | .byte b a => if bufBusy b s then ((drawWord s).setWidth 8).setWidth 32 else (byteAt s a).setWidth 32
  | .word b a =>
    if bufBusy b s then drawWord s
    else le32 (byteAt s a) (byteAt s (a + 1)) (byteAt s (a + 2)) (byteAt s (a + 3))

/-- `MemRead(off, n)` (20_memory.md R55, R58). A read changes nothing of the block (R59); the draw counter moves on (log entry 14). -/
def hostRead (n : Nat) (off : Offset) (s : State) : Host.Outcome State Fault Refusal :=
  match resolve n off with
  | .error e => .fault (.busError e)
  | .ok t => .next { s with reply := .data (readTarget t s), draws := s.draws + 1 }

/-! ### Writes -/

/-- A write of bytes to SECBUF: stored while IDLE, dropped with OVERRUN while BUSY (20_memory.md R56, R63). -/
def writeSecbuf (a : Nat) (bs : List Byte) (s : State) : State :=
  match s.phase with
  | .idle => storeBytes a bs s
  | .busy _ => { s with overrun := true }

/-- A write to a register; read-only registers ignore it (20_memory.md R56). -/
def writeReg (r : Reg) (v : Word) (s : State) : State :=
  match r with
  | .cmd => issue v s
  | .status => writeStatus v s
  | .irqEn => writeIrqEn v s
  | .lfsr | .ksbyte | .edcAcc | .edcOut | .seed | .ksLen | .scanCount => s

/-- What a legal write does; KSBUF and OUTBUF ignore it (20_memory.md R52, R56). -/
def writeTarget (t : Target) (v : Word) (s : State) : State :=
  match t with
  | .reg r => writeReg r v s
  | .byte .sec a => writeSecbuf a [v.setWidth 8] s
  | .word .sec a => writeSecbuf a (le32Bytes v) s
  | .byte .ks _ | .byte .out _ | .word .ks _ | .word .out _ => s

/-- `MemWrite(off, n, v)` (20_memory.md R56, R58). -/
def hostWrite (n : Nat) (off : Offset) (v : Word) (s : State) : Host.Outcome State Fault Refusal :=
  match resolve n off with
  | .error e => .fault (.busError e)
  | .ok t => .next { writeTarget t v s with reply := .accepted }

end Sys2Proof.Machine
end

