-- ==== Sys2Proof/Machine/Lfsr.lean ====
section
/-! DEFINITION. The LFSR keystream generator (40_lfsr.md): the pure functions `step`, `byteStep` and `cypher`, and the commands
LFSR_LOAD, LFSR_STEP, LFSR_BYTE and GEN_KS. -/

namespace Sys2Proof.Machine

/-! ### The generator functions -/

/-- `step(r)`: the output bit is bit 14, the feedback bit 14 XOR bit 10, both before the shift (40_lfsr.md R100). -/
def lfsrStep (r : Seed) : Bool × Seed :=
  (r.getLsbD 14, (r <<< 1) ||| (BitVec.ofBool (r.getLsbD 14 ^^ r.getLsbD 10)).setWidth 15)

/-- The loop of `byteStep` with n steps left: shift each output bit into v from below (40_lfsr.md R101). -/
def bitSteps : Nat → Byte → Seed → Byte × Seed
  | 0, v, t => (v, t)
  | n + 1, v, t => bitSteps n ((v <<< 1) ||| (BitVec.ofBool (lfsrStep t).1).setWidth 8) (lfsrStep t).2

/-- `byteStep(r)`: one keystream byte and the state after its eight steps (40_lfsr.md R101). -/
def byteStep (r : Seed) : Byte × Seed := bitSteps 8 0 r

/-- `cypher(seed, n)`: the first n keystream bytes (40_lfsr.md R102). -/
def cypher (r : Seed) : Nat → List Byte
  | 0 => []
  | n + 1 => (byteStep r).1 :: cypher (byteStep r).2 n

/-- `cypherState(seed, n)`: the LFSR state after n keystream bytes (40_lfsr.md R102). -/
def cypherState (r : Seed) : Nat → Seed
  | 0 => r
  | n + 1 => cypherState (byteStep r).2 n

/-- Fill the whole KSBUF with the keystream of a seed and set KS_LEN to 2048: what SEARCH on success and SET_SEED do
(43_search_session.md R182, R186; 10_state.md R32). -/
def fillKeystream (seed : Seed) (s : State) : State :=
  { storeBytes ksBase (cypher seed ksMax) s with ksLen := BitVec.ofNat 12 ksMax }

/-! ### LFSR_LOAD (40_lfsr.md R110) -/

/-- `LFSR <- seed`. -/
def lfsrLoadBody (seed : Seed) (s : State) : State × Err := ({ s with lfsr := seed }, .ok)

/-- LFSR_LOAD (40_lfsr.md R110). -/
def execLfsrLoad (mbz : BitVec 12) (seed15 : BitVec 1) (seed : Seed) (s : State) : Host.Outcome State Fault Refusal :=
  complete (formatSLegal mbz seed15) (lfsrLoadBody seed) s

/-! ### LFSR_STEP (40_lfsr.md R111) -/

/-- `(o, r') <- step(LFSR); STATUS.OUTBIT <- o; LFSR <- r'`. -/
def lfsrStepBody (s : State) : State × Err :=
  ({ s with outbit := (lfsrStep s.lfsr).1, lfsr := (lfsrStep s.lfsr).2 }, .ok)

/-- LFSR_STEP (40_lfsr.md R111). -/
def execLfsrStep (mbz : BitVec 28) (s : State) : Host.Outcome State Fault Refusal :=
  complete (formatNLegal mbz) lfsrStepBody s

/-! ### LFSR_BYTE (40_lfsr.md R112) -/

/-- `(v, r8) <- byteStep(LFSR); KSBYTE <- v; LFSR <- r8`. -/
def lfsrByteBody (s : State) : State × Err :=
  ({ s with ksbyte := (byteStep s.lfsr).1, lfsr := (byteStep s.lfsr).2 }, .ok)

/-- LFSR_BYTE (40_lfsr.md R112). -/
def execLfsrByte (mbz : BitVec 28) (s : State) : Host.Outcome State Fault Refusal :=
  complete (formatNLegal mbz) lfsrByteBody s

/-! ### GEN_KS (40_lfsr.md R113) -/

/-- `KSBUF[0:len] <- cypher(seed, len); LFSR <- cypherState(seed, len); KS_LEN <- len`. -/
def genKsBody (len : BitVec 12) (seed : Seed) (s : State) : State × Err :=
  ({ storeBytes ksBase (cypher seed len.toNat) s with lfsr := cypherState seed len.toNat, ksLen := len }, .ok)

/-- GEN_KS (40_lfsr.md R113). -/
def execGenKs (len : BitVec 12) (seed15 : BitVec 1) (seed : Seed) (s : State) : Host.Outcome State Fault Refusal :=
  complete (formatGLegal len seed15) (genKsBody len seed) s

end Sys2Proof.Machine
end

