-- ==== Sys2Proof/Machine/Sector.lean ====
section
/-! DEFINITION. The sector decoder (42_decode.md): the decode function and the command DECODE. -/

namespace Sys2Proof.Machine

/-- `hdr ++ P`, the candidate of a sector image under a keystream (42_decode.md R160). -/
def candidate (img ks : List Byte) : List Byte := slice img 0 hdrLen ++ xorBytes (slice img hdrLen edcSpan) ks

/-- The accumulator of a decode: `fold(EDC_INIT, hdr ++ P)` (42_decode.md R160). -/
def decodeAcc (p : EdcParams) (img ks : List Byte) : Word := edcFold p p.init (candidate img ks)

/-- The checksum of the candidate is the trailing checksum (42_decode.md R160). -/
def decodeMatches (p : EdcParams) (img ks : List Byte) : Bool := edcFinal p (decodeAcc p img ks) == trailing img

/-- `decodeFn(S, K)`: the DecodedSector, or none for BadChecksum; and the accumulator (42_decode.md R160). -/
def decodeFn (p : EdcParams) (img ks : List Byte) : Option (List Byte) × Word :=
  (if decodeMatches p img ks then some (candidate img ks ++ slice img edcSpan secLen) else none, decodeAcc p img ks)

/-- The rule of DECODE once its fields are legal: the KS_LEN check, then the decode, keeping EDC_ACC and MATCH on a mismatch
(42_decode.md R161, 60_exceptions.md R212). -/
def decodeBody (p : EdcParams) (s : State) : State × Err :=
  if s.ksLen.toNat = 2048 then
    match decodeFn p (secbuf s) (ksbuf s) with
    | (some d, a) => ({ storeBytes outBase d s with edcAcc := a, matched := true }, .ok)
    | (none, a) => ({ s with edcAcc := a, matched := false }, .badChecksum)
  else (s, .invalidArgument)

/-- DECODE (42_decode.md R161). -/
def execDecode (mbz : BitVec 28) (s : State) : Host.Outcome State Fault Refusal :=
  complete (formatNLegal mbz) (decodeBody Config.edc) s

end Sys2Proof.Machine
end

