-- ==== Sys2Proof/Machine/Session.lean ====
section
/-! DEFINITION. Seed search, the session seed, NOP and the reserved opcodes (43_search_session.md; 30_encoding.md R88): the commands
SEARCH, SET_SEED, CLEAR_SESSION, NOP and any word of OP 0xC to 0xF. -/

namespace Sys2Proof.Machine

/-! ### The search functions -/

/-- `trial(S, s)`: the decode of the sample under the seed's keystream is Ok (43_search_session.md R180). -/
def trial (p : EdcParams) (img : List Byte) (seed : Seed) : Bool := (decodeFn p img (cypher seed 2048)).1.isSome

/-- `searchFn(S)`: the lowest of all 0x8000 seeds whose trial passes, or none for NotFound (43_search_session.md R181). Lanes may
not change it (R183), so there are none here. -/
def searchFn (p : EdcParams) (img : List Byte) : Option Seed :=
  ((List.range 0x8000).find? (fun k => trial p img (BitVec.ofNat 15 k))).map (BitVec.ofNat 15)

/-- A session seed is accepted: SEED, SEED_VALID, KSBUF and KS_LEN (43_search_session.md R182, R186). -/
def acceptSeed (seed : Seed) (s : State) : State := { fillKeystream seed s with seed := seed, seedValid := true }

/-! ### SEARCH (43_search_session.md R182) -/

/-- The rule of SEARCH once its fields are legal (43_search_session.md R182, R184; 60_exceptions.md R212). -/
def searchBody (p : EdcParams) (s : State) : State × Err :=
  if s.seedValid then (s, .invalidArgument)
  else
    match searchFn p (secbuf s) with
    | some seed => ({ acceptSeed seed s with matched := true, scanCount := seed.setWidth 16 + 1 }, .ok)
    | none => ({ s with matched := false, scanCount := 0x8000 }, .seedNotFound)

/-- SEARCH (43_search_session.md R182), one atomic completion step (R183). -/
def execSearch (mbz : BitVec 28) (s : State) : Host.Outcome State Fault Refusal :=
  complete (formatNLegal mbz) (searchBody Config.edc) s

/-! ### SET_SEED (43_search_session.md R186) -/

/-- The rule of SET_SEED once its fields are legal. -/
def setSeedBody (seed : Seed) (s : State) : State × Err :=
  if s.seedValid then (s, .invalidArgument) else (acceptSeed seed s, .ok)

/-- SET_SEED (43_search_session.md R186). -/
def execSetSeed (mbz : BitVec 12) (seed15 : BitVec 1) (seed : Seed) (s : State) : Host.Outcome State Fault Refusal :=
  complete (formatSLegal mbz seed15) (setSeedBody seed) s

/-! ### CLEAR_SESSION (43_search_session.md R187) -/

/-- `SEED <- 0; STATUS.SEED_VALID <- 0; SCAN_COUNT <- 0`. -/
def clearSessionBody (s : State) : State × Err := ({ s with seed := 0, seedValid := false, scanCount := 0 }, .ok)

/-- CLEAR_SESSION (43_search_session.md R187). -/
def execClearSession (mbz : BitVec 28) (s : State) : Host.Outcome State Fault Refusal :=
  complete (formatNLegal mbz) clearSessionBody s

/-! ### NOP (43_search_session.md R188) -/

/-- NOP (43_search_session.md R188): no writes of its own. -/
def execNop (mbz : BitVec 28) (s : State) : Host.Outcome State Fault Refusal :=
  complete (formatNLegal mbz) (fun t => (t, .ok)) s

/-! ### Reserved opcodes (30_encoding.md R88) -/

/-- A reserved OP completes with ILLEGAL_COMMAND whatever its other bits are: this check comes first
(30_encoding.md R88, 60_exceptions.md R211 step 1). -/
def execReserved (_low : BitVec 30) (s : State) : Host.Outcome State Fault Refusal :=
  complete true (fun t => (t, .illegalCommand)) s

end Sys2Proof.Machine
end

