-- ==== Sys2Proof/Machine/Dispatch.lean ====
section
/-! DEFINITION. Every command's meaning, one arm per constructor (60_exceptions.md R213 "run the command's rule"). -/

namespace Sys2Proof.Machine

def exec (i : Instr) (s : State) : Host.Outcome State Fault Refusal :=
  match i with
  | .nop mbz => Sys2Proof.Machine.execNop mbz s
  | .lfsrLoad mbz seed15 seed => Sys2Proof.Machine.execLfsrLoad mbz seed15 seed s
  | .lfsrStep mbz => Sys2Proof.Machine.execLfsrStep mbz s
  | .lfsrByte mbz => Sys2Proof.Machine.execLfsrByte mbz s
  | .genKs len seed15 seed => Sys2Proof.Machine.execGenKs len seed15 seed s
  | .edcClear mbz => Sys2Proof.Machine.execEdcClear mbz s
  | .edcByte mbz byte => Sys2Proof.Machine.execEdcByte mbz byte s
  | .edcSector mbz => Sys2Proof.Machine.execEdcSector mbz s
  | .decodeSector mbz => Sys2Proof.Machine.execDecode mbz s
  | .search mbz => Sys2Proof.Machine.execSearch mbz s
  | .setSeed mbz seed15 seed => Sys2Proof.Machine.execSetSeed mbz seed15 seed s
  | .clearSession mbz => Sys2Proof.Machine.execClearSession mbz s
  | .reserved low => Sys2Proof.Machine.execReserved low s

end Sys2Proof.Machine
end

