-- ==== Sys2Proof/Machine/Events.lean ====
section
/-! DEFINITION. What each event does to the block, the engine's turn, and the order in which they come (10_state.md R20, R23;
60_exceptions.md R213, R219; 70_reset_and_hazards.md R240). -/

namespace Sys2Proof.Machine

/-- The engine's turn: a BUSY engine takes its completion step on the word it latched (60_exceptions.md R213); an IDLE one waits
for a CMD write (R226); under RST it does nothing (70_reset_and_hazards.md R240). -/
def engineTurn (s : State) : Host.Outcome State Fault Refusal :=
  if s.rst then .next s
  else
    match s.phase with
    | .idle => .next s
    | .busy c => exec (decode c) s

/-- One event. Under RST a host access is not served, and it is the falling edge of RST that leaves the reset state
(70_reset_and_hazards.md R240, log entry 7). -/
def perform (e : Event) (s : State) : Host.Outcome State Fault Refusal :=
  match e with
  | .read n off => if s.rst then .next { s with reply := .unserved } else hostRead n off s
  | .write n off v => if s.rst then .next { s with reply := .unserved } else hostWrite n off v s
  | .engine => engineTurn s
  | .rst true => .next { s with rst := true }
  | .rst false => if s.rst then .next (releaseReset s) else .next s

/-- The next thing to happen: the oldest waiting event, or, when none waits, the engine's turn: the completion step is weakly
fair (70_reset_and_hazards.md R252, log entries 4 and 5). -/
def nextEvent (s : State) : Host.Outcome State Fault Refusal :=
  match s.inputs with
  | [] => engineTurn s
  | e :: rest => perform e { s with inputs := rest }

/-- The engine holds the command word w and nothing else comes first: the state just after the host's accepted CMD write of w,
with no event waiting (30_encoding.md R80, log entry 8). -/
def holdCommand (w : Word) (s : State) : State :=
  issue w { s with phase := .idle, inputs := [], rst := false }

end Sys2Proof.Machine
end

