-- ==== Sys2Proof/Machine/Step.lean ====
section
/-! DEFINITION. The step of the machine, and how an instruction is placed so that the next step runs it. -/

namespace Sys2Proof.Machine

/-- One step: one event, atomically (20_memory.md R61). -/
def step (s : State) : Host.Outcome State Fault Refusal := nextEvent s

/-- `s` with a command latched so that the next step is its completion step. The block fetches nothing (10_state.md R22): the host
writes the word to CMD (30_encoding.md R80), and this is the state after that write (log entry 8). Bits of w from `nbits` up are zero. -/
def State.withFetchWord (s : State) (nbits w : Nat) : State := holdCommand (BitVec.ofNat 32 (w % 2 ^ nbits)) s

end Sys2Proof.Machine
end

