-- ==== Sys2Proof/Machine/HostProgram.lean ====
section
/-! DEFINITION. The host's side of the window: the assembler's commands and the pseudo-instructions, each as the list of events it
puts on the bus (30_encoding.md R91, R92). The host's own memory, and what it does with the data it reads, is not the block's
(10_state.md R20). -/

namespace Sys2Proof.Machine

/-- Command syntax, operands as the programmer writes them (30_encoding.md R91), with `GEN_SECTOR_KS` (R92) and `.word`. -/
inductive Asm where
  | nop | lfsrStep | lfsrByte | edcClear | edcSector | decodeSector | search | clearSession
  | lfsrLoad (seed : Nat)
  | setSeed (seed : Nat)
  | genKs (seed len : Nat)
  | genSectorKs (seed : Nat)
  | edcByte (byte : Nat)
  | word (w : Word)
  deriving DecidableEq, Repr

/-- A seed operand: refused above 0x7FFF (30_encoding.md R91). -/
def asmSeed (seed : Nat) : Option Seed := if seed ≤ 0x7FFF then some (BitVec.ofNat 15 seed) else none

/-- `GEN_KS #seed, #len`: refused for a seed above 0x7FFF or a len above 2048 (30_encoding.md R91). -/
def asmGenKs (seed len : Nat) : Option Word :=
  if len ≤ 2048 then (asmSeed seed).map (fun s => encode (.genKs (BitVec.ofNat 12 len) 0 s)) else none

/-- The word the assembler gives, or none where it refuses an operand out of range (30_encoding.md R87, R91). -/
def assemble : Asm → Option Word
  | .nop => some (encode (.nop 0))
  | .lfsrStep => some (encode (.lfsrStep 0))
  | .lfsrByte => some (encode (.lfsrByte 0))
  | .edcClear => some (encode (.edcClear 0))
  | .edcSector => some (encode (.edcSector 0))
  | .decodeSector => some (encode (.decodeSector 0))
  | .search => some (encode (.search 0))
  | .clearSession => some (encode (.clearSession 0))
  | .lfsrLoad seed => (asmSeed seed).map (fun s => encode (.lfsrLoad 0 0 s))
  | .setSeed seed => (asmSeed seed).map (fun s => encode (.setSeed 0 0 s))
  | .genKs seed len => asmGenKs seed len
  | .genSectorKs seed => asmGenKs seed 2048
  | .edcByte byte => if byte ≤ 0xFF then some (encode (.edcByte 0 (BitVec.ofNat 8 byte))) else none
  | .word w => some w

/-- Host statements and pseudo-instructions (30_encoding.md R91, R92). `polls` is how many STATUS reads of a `WAIT` loop still find
BUSY = 1: the block bounds it by nothing (70_reset_and_hazards.md R252), log entry 19. -/
inductive HostStmt where
  | wr32 (off : Offset) (v : Word)
  | wr8 (off : Offset) (v : Byte)
  | rd32 (off : Offset)
  | rd8 (off : Offset)
  | issue (a : Asm)
  | wait (polls : Nat)
  | run (a : Asm) (polls : Nat)
  | clrDone
  | clrOvr
  | loadSec (img : List Byte)
  | readOut
  | checkErr
  deriving DecidableEq, Repr

/-- A `WAIT` loop with `polls` reads before the completion and one after it (30_encoding.md R92). -/
def waitEvents (polls : Nat) : List Event := List.replicate polls (.read 4 0x004) ++ [.engine, .read 4 0x004]

/-- The k-th word of a sector image, `S[4k] | S[4k+1]<<8 | S[4k+2]<<16 | S[4k+3]<<24` (30_encoding.md R92). -/
def laneWord (img : List Byte) (k : Nat) : Word :=
  le32 (img.getD (4 * k) 0) (img.getD (4 * k + 1) 0) (img.getD (4 * k + 2) 0) (img.getD (4 * k + 3) 0)

/-- `LOADSEC S`: 516 word writes from 0x1000 on (30_encoding.md R92). -/
def loadSecEvents (img : List Byte) : List Event :=
  (List.range 516).map (fun k => .write 4 (BitVec.ofNat 14 (0x1000 + 4 * k)) (laneWord img k))

/-- `READOUT`: 516 word reads from 0x3000 on; the bytes of each are `le32Bytes` of its data (30_encoding.md R92). -/
def readOutEvents : List Event := (List.range 516).map (fun k => .read 4 (BitVec.ofNat 14 (0x3000 + 4 * k)))

/-- `e <- t[10:8]`, what `CHECK_ERR` takes from the STATUS word it read (30_encoding.md R92). -/
def errField (t : Word) : BitVec 3 := t.extractLsb' 8 3

/-- The bus events of a host statement, or none where the assembler refuses it or `LOADSEC` is not given one whole sector
(30_encoding.md R91, R92; 91_not_in_source.md N15). -/
def expand : HostStmt → Option (List Event)
  | .wr32 off v => some [.write 4 off v]
  | .wr8 off v => some [.write 1 off (v.setWidth 32)]
  | .rd32 off => some [.read 4 off]
  | .rd8 off => some [.read 1 off]
  | .issue a => (assemble a).map (fun w => [.write 4 0x000 w])
  | .wait polls => some (waitEvents polls)
  | .run a polls => (assemble a).map (fun w => .write 4 0x000 w :: waitEvents polls)
  | .clrDone => some [.write 4 0x004 0x00000002]
  | .clrOvr => some [.write 4 0x004 0x00010000]
  | .loadSec img => if img.length = 2064 then some (loadSecEvents img) else none
  | .readOut => some readOutEvents
  | .checkErr => some [.read 4 0x004]

end Sys2Proof.Machine
end

