-- ==== Sys2Proof/Safety.lean ====
section
/-! DEFINITION. What counts as a good state and a safe run of the block, in the terms the statements use. -/

namespace Sys2Proof.Machine

/-- The offset lies in one of the three buffers (20_memory.md R51). -/
def inBuffers (a : Nat) : Bool :=
  match region a with
  | .buf _ => true
  | .regs | .unmapped => false

/-- The invariant of the block: what the spec says of every state it can be in. -/
structure State.Inv (s : State) : Prop where
  /-- The memory is in its canonical form. -/
  memWf : s.mem.wf = true
  /-- Only buffer bytes are stored (20_memory.md R51). -/
  memMapped : ∀ a, (s.mem.get a).isSome = true → inBuffers a = true
  /-- KS_LEN is 0 to 2048 (10_state.md R32). -/
  ksLenLe : s.ksLen.toNat ≤ 2048
  /-- The leading KS_LEN bytes of KSBUF have been written (10_state.md R32). -/
  ksWritten : ∀ i, i < s.ksLen.toNat → (s.mem.get (ksBase + i)).isSome = true
  /-- SCAN_COUNT is 0 to 0x8000 (10_state.md R33, 43_search_session.md R184). -/
  scanCountLe : s.scanCount.toNat ≤ 0x8000
  /-- CMD holds the running command's word, and DONE is 0 while it runs (10_state.md R23, R25, R26). -/
  busyCmd : ∀ c, s.phase = .busy c → s.cmd = c ∧ s.done = false
  /-- SEED is 0 outside a session (10_state.md R31, 43_search_session.md R187). -/
  seedZero : s.seedValid = false → s.seed = 0

/-- A run's step is safe: it is no bus error and no refusal (20_memory.md R58). -/
def State.safe (s : State) : Bool :=
  match step s with
  | .next _ => true
  | .fault _ => false
  | .refused _ => false

end Sys2Proof.Machine
end

