-- ==== Sys2Proof/Certificates/Slice0/Obligations.lean ====
section
/-! DEFINITION. The statements for the provers, from the spec's numbered rules. A statement about free values (draws, unwritten
bytes, the EDC parameters) holds for every value of them. -/

namespace Sys2Proof.Claims

open Sys2Proof.Machine

/-! ### The words the statements use -/

/-- The STATUS update that ends a command, written out (60_exceptions.md R213); `draws` is the model's own counter (log entry 14). -/
def completed (e : Err) (s : State) : State := { s with err := e, done := true, phase := .idle, draws := s.draws + 1 }

/-- OP, c[31:28] (30_encoding.md R81). -/
def opOf (c : Word) : Nat := c.toNat / 2 ^ 28

/-- The word is `Invalid`, read off its bits (30_encoding.md R93): formats N, S, G and B in this order. -/
def badFields (c : Word) : Prop :=
  (opOf c ∈ [0x0, 0x2, 0x3, 0x5, 0x7, 0x8, 0x9, 0xB] ∧ c.toNat % 2 ^ 28 ≠ 0) ∨
  (opOf c ∈ [0x1, 0xA] ∧ (c.toNat / 2 ^ 16 % 2 ^ 12 ≠ 0 ∨ c.getLsbD 15 = true)) ∨
  (opOf c = 0x4 ∧ (c.getLsbD 15 = true ∨ 2048 < c.toNat / 2 ^ 16 % 2 ^ 12)) ∨
  (opOf c = 0x6 ∧ c.toNat / 2 ^ 8 % 2 ^ 20 ≠ 0)

/-- The number of a command's row in the opcode map; 12 for the reserved row (30_encoding.md R87). -/
def rowOf : Instr → Nat
  | .nop _ => 0
  | .lfsrLoad _ _ _ => 1
  | .lfsrStep _ => 2
  | .lfsrByte _ => 3
  | .genKs _ _ _ => 4
  | .edcClear _ => 5
  | .edcByte _ _ => 6
  | .edcSector _ => 7
  | .decodeSector _ => 8
  | .search _ => 9
  | .setSeed _ _ _ => 10
  | .clearSession _ => 11
  | .reserved _ => 12

/-- The LFSR state after k steps (40_lfsr.md R100). -/
def lfsrAfter (r : Seed) : Nat → Seed
  | 0 => r
  | k + 1 => (lfsrStep (lfsrAfter r k)).2

/-- `o(k)`, the output of step k (40_lfsr.md R106). -/
def outBit (r : Seed) (k : Nat) : Bool := (lfsrStep (lfsrAfter r k)).1

/-- The bytes of SECBUF and KSBUF a command sees, by their offsets (20_memory.md R52): header, payload as stored, payload XOR KSBUF,
payload XOR a seed's keystream, trailing bytes. -/
def headerBytes (s : State) : List Byte := (List.range 12).map (fun i => byteAt s (0x1000 + i))
def payloadBytes (s : State) : List Byte := (List.range 2048).map (fun i => byteAt s (0x100C + i))
def plainBytes (s : State) : List Byte := (List.range 2048).map (fun i => byteAt s (0x100C + i) ^^^ byteAt s (0x2000 + i))
def trialBytes (s : State) (k : Seed) : List Byte :=
  (List.range 2048).map (fun i => byteAt s (0x100C + i) ^^^ (cypher k 2048).getD i 0)
def trailerBytes (s : State) : List Byte := (List.range 4).map (fun i => byteAt s (0x180C + i))

/-- `BE32(SECBUF[2060:2064])` (20_memory.md R53). -/
def trailerValue (s : State) : Word :=
  ((byteAt s 0x180C).setWidth 32 <<< 24) ||| ((byteAt s 0x180D).setWidth 32 <<< 16) |||
  ((byteAt s 0x180E).setWidth 32 <<< 8) ||| (byteAt s 0x180F).setWidth 32

/-- The seed's trial on the sample in SECBUF passes (43_search_session.md R180). -/
def passes (s : State) (k : Seed) : Prop := edc Config.edc (headerBytes s ++ trialBytes s k) = trailerValue s

/-- Commands completed one after the other, stopping at the first that gives no next state. -/
def runCommands : List Instr → State → Host.Outcome State Fault Refusal
  | [], s => .next s
  | i :: is, s =>
    match exec i s with
    | .next t => runCommands is t
    | .fault r => .fault r
    | .refused r => .refused r

/-- The legal host accesses (20_memory.md R54). -/
def legalAccess (n a : Nat) : Prop :=
  (a < 0x28 ∧ n = 4 ∧ a % 4 = 0) ∨
  (((0x1000 ≤ a ∧ a < 0x1810) ∨ (0x2000 ≤ a ∧ a < 0x2800) ∨ (0x3000 ≤ a ∧ a < 0x3810)) ∧ (n = 1 ∨ (n = 4 ∧ a % 4 = 0)))

/-- The EDC parameters of the candidate instance CAND, which is not normative (41_edc.md "Candidate instance"). -/
def cand : EdcParams := ⟨0x80000011, 0, false, false, 0⟩

/-- The ASCII string "123456789" of the published check values (41_edc.md "Candidate instance"). -/
def digits : List Byte := [0x31, 0x32, 0x33, 0x34, 0x35, 0x36, 0x37, 0x38, 0x39]

/-- What a location of a write set holds: its value as a list of bits, flags and bytes (20_memory.md R64). -/
def locValue (l : Loc) (s : State) : List (Option Byte) × Word × Bool :=
  match l with
  | .lfsr => ([], s.lfsr.setWidth 32, false)
  | .ksbyte => ([], s.ksbyte.setWidth 32, false)
  | .edcAcc => ([], s.edcAcc, false)
  | .edcOut => ([], edcOut s, false)
  | .seed => ([], s.seed.setWidth 32, false)
  | .ksLen => ([], s.ksLen.setWidth 32, false)
  | .scanCount => ([], s.scanCount.setWidth 32, false)
  | .matchFlag => ([], 0, s.matched)
  | .outbitFlag => ([], 0, s.outbit)
  | .seedValidFlag => ([], 0, s.seedValid)
  | .ksbuf => ((List.range 2048).map (fun i => s.mem.get (0x2000 + i)), 0, false)
  | .outbuf => ((List.range 2064).map (fun i => s.mem.get (0x3000 + i)), 0, false)

/-- The step from s to t is the completion step of the command word c: it is the engine's turn, and t is IDLE with DONE set
(60_exceptions.md R213). -/
def completes (c : Word) (s t : State) : Prop :=
  s.rst = false ∧ s.phase = .busy c ∧ (s.inputs = [] ∨ ∃ rest, s.inputs = .engine :: rest) ∧ t.phase = .idle ∧ t.done = true

/-- The step from s to t completes a command whose OP is one of these. -/
def completesOneOf (ops : List Nat) (s t : State) : Prop := ∃ c, completes c s t ∧ opOf c ∈ ops

/-- The host's next access is an n-byte write of v at this offset. -/
def hostWrites (n : Nat) (off : Offset) (v : Word) (s : State) : Prop := ∃ rest, s.inputs = .write n off v :: rest

/-- The offset is one of SECBUF's (20_memory.md R51). -/
def inSecbuf (a : Nat) : Prop := 0x1000 ≤ a ∧ a < 0x1810

end Sys2Proof.Claims

open Sys2Proof Sys2Proof.Machine Sys2Proof.Claims

/-! ### Encoding (30_encoding.md) -/

/-- Decoding the encoded word gives the command back, for every command with every field at every value (R82 to R88). -/
def Obligations.DecodeEncodeRoundTrip : Prop := ∀ i : Instr, decode (encode i) = i

/-- Encoding the decoded word gives the word back, for all 2^32 words (R82 to R88): no bit of a word is dropped. -/
def Obligations.EncodeDecodeRoundTrip : Prop := ∀ c : Word, encode (decode c) = c

/-- The decode procedure (R93) by the bits of the word, reserved OP first, and how each rejection completes (R88). -/
def Obligations.DecodeProcedureByWordBits : Prop :=
  ∀ c : Word,
    (0xC ≤ opOf c → decodeLegal c = .error .illegal ∧ ∀ s, exec (decode c) s = .next (completed .illegalCommand s)) ∧
    (badFields c → decodeLegal c = .error .invalid ∧ ∀ s, exec (decode c) s = .next (completed .invalidArgument s)) ∧
    (opOf c < 0xC → ¬ badFields c → ∃ i, decodeLegal c = .ok i ∧ decode c = i ∧ i.wf = true ∧ encode i = c)

/-- The opcode map (R87): the row by OP alone, and the word of every legal command. -/
def Obligations.OpcodeMapAndCommandWords : Prop :=
  (∀ c : Word, rowOf (decode c) = min (opOf c) 12) ∧
  encode (.nop 0) = 0x00000000 ∧ encode (.lfsrStep 0) = 0x20000000 ∧ encode (.lfsrByte 0) = 0x30000000 ∧
  encode (.edcClear 0) = 0x50000000 ∧ encode (.edcSector 0) = 0x70000000 ∧ encode (.decodeSector 0) = 0x80000000 ∧
  encode (.search 0) = 0x90000000 ∧ encode (.clearSession 0) = 0xB0000000 ∧
  (∀ seed : Seed, encode (.lfsrLoad 0 0 seed) = 0x10000000 ||| seed.setWidth 32) ∧
  (∀ seed : Seed, encode (.setSeed 0 0 seed) = 0xA0000000 ||| seed.setWidth 32) ∧
  (∀ (len : BitVec 12) (seed : Seed), encode (.genKs len 0 seed) = 0x40000000 ||| (len.setWidth 32 <<< 16) ||| seed.setWidth 32) ∧
  (∀ byte : Byte, encode (.edcByte 0 byte) = 0x60000000 ||| byte.setWidth 32)

/-- Words written out from the encodings of R82 to R88, and what they decode to. -/
def Obligations.SampleWordsDecode : Prop :=
  decode 0x10007FFF = .lfsrLoad 0 0 0x7FFF ∧ decode 0x10008000 = .lfsrLoad 0 1 0 ∧ decode 0x48007FFF = .genKs 2048 0 0x7FFF ∧
  decode 0x600000A5 = .edcByte 0 0xA5 ∧ decode 0x60000100 = .edcByte 1 0 ∧ decode 0x80000000 = .decodeSector 0 ∧
  decode 0xA0000123 = .setSeed 0 0 0x123 ∧ decode 0x20000001 = .lfsrStep 1 ∧ decode 0xFFFFFFFF = .reserved 0x3FFFFFFF

/-! ### The commands -/

/-- NOP (43_search_session.md R188): its word, its completion, and that reset reads it back in CMD without issuing it. -/
def Obligations.NopCommand : Prop :=
  decode 0x00000000 = .nop 0 ∧
  (∀ s, exec (.nop 0) s = .next (completed .ok s)) ∧
  State.reset.cmd = encode (.nop 0) ∧ State.reset.phase = .idle ∧
  (∀ mbz s, mbz ≠ 0 → exec (.nop mbz) s = .next (completed .invalidArgument s))

/-- LFSR_LOAD (40_lfsr.md R110): its result, and that nothing else changes. -/
def Obligations.LfsrLoadCommand : Prop :=
  (∀ seed : Seed, decode (0x10000000 ||| seed.setWidth 32) = .lfsrLoad 0 0 seed) ∧
  (∀ seed s, exec (.lfsrLoad 0 0 seed) s = .next (completed .ok { s with lfsr := seed })) ∧
  (∀ mbz seed15 seed s, mbz ≠ 0 ∨ seed15 ≠ 0 → exec (.lfsrLoad mbz seed15 seed) s = .next (completed .invalidArgument s))

/-- LFSR_STEP (40_lfsr.md R100, R111), the step bit by bit. -/
def Obligations.LfsrStepCommand : Prop :=
  decode 0x20000000 = .lfsrStep 0 ∧
  (∀ s, ∃ t, exec (.lfsrStep 0) s = .next t ∧
    t = completed .ok { s with lfsr := t.lfsr, outbit := s.lfsr.getLsbD 14 } ∧
    t.lfsr.getLsbD 0 = (s.lfsr.getLsbD 14 ^^ s.lfsr.getLsbD 10) ∧
    (∀ k, k < 14 → t.lfsr.getLsbD (k + 1) = s.lfsr.getLsbD k)) ∧
  (∀ mbz s, mbz ≠ 0 → exec (.lfsrStep mbz) s = .next (completed .invalidArgument s)) ∧
  lfsrStep 0 = (false, 0) ∧ lfsrStep 0x4000 = (true, 0x0001) ∧ lfsrStep 0x4400 = (true, 0x0800) ∧ lfsrStep 0x0400 = (false, 0x0801)

/-- LFSR_BYTE (40_lfsr.md R101, R112): the byte is LFSR[14:7], the new LFSR is eight steps on and depends on every bit, OUTBIT stays;
after LFSR_LOAD, n of them give byte n - 1 of the keystream and leave its state. -/
def Obligations.LfsrByteCommand : Prop :=
  decode 0x30000000 = .lfsrByte 0 ∧
  (∀ s, exec (.lfsrByte 0) s =
    .next (completed .ok { s with ksbyte := s.lfsr.extractLsb' 7 8, lfsr := lfsrAfter s.lfsr 8 })) ∧
  (∀ mbz s, mbz ≠ 0 → exec (.lfsrByte mbz) s = .next (completed .invalidArgument s)) ∧
  (∀ seed n s, ∃ t, runCommands (.lfsrLoad 0 0 seed :: List.replicate n (.lfsrByte 0)) s = .next t ∧
    t.lfsr = cypherState seed n ∧ ∀ m, n = m + 1 → t.ksbyte = (cypher seed n).getD m 0) ∧
  (∀ (r : Seed) k, k < 15 → (byteStep (r ^^^ BitVec.twoPow 15 k)).2 ≠ (byteStep r).2) ∧
  byteStep 0 = (0, 0) ∧ byteStep 0x4400 = (0x88, 0x0008)

/-- GEN_KS (40_lfsr.md R113): KSBUF[0:len], LFSR, KS_LEN; every other byte and register stays; a DECODE after a short one is
rejected. -/
def Obligations.GenKsCommand : Prop :=
  (∀ (len : BitVec 12) (seed : Seed),
    decode (0x40000000 ||| (len.setWidth 32 <<< 16) ||| seed.setWidth 32) = .genKs len 0 seed) ∧
  (∀ (len : BitVec 12) seed s, len.toNat ≤ 2048 → ∃ t, exec (.genKs len 0 seed) s = .next t ∧
    t = completed .ok { s with mem := t.mem, lfsr := cypherState seed len.toNat, ksLen := len } ∧
    (∀ i, i < len.toNat → t.mem.get (0x2000 + i) = (cypher seed len.toNat)[i]?) ∧
    (∀ a, ¬ (0x2000 ≤ a ∧ a < 0x2000 + len.toNat) → t.mem.get a = s.mem.get a)) ∧
  (∀ (len : BitVec 12) seed15 seed s, 2048 < len.toNat ∨ seed15 ≠ 0 →
    exec (.genKs len seed15 seed) s = .next (completed .invalidArgument s)) ∧
  (∀ (len : BitVec 12) seed s t, len.toNat < 2048 → exec (.genKs len 0 seed) s = .next t →
    exec (.decodeSector 0) t = .next (completed .invalidArgument t)) ∧
  (∀ seed n, cypherState seed n = lfsrAfter seed (8 * n)) ∧
  cypher 0x0001 8 = [0x00, 0x02, 0x00, 0x44, 0x08, 0x09, 0x11, 0x30] ∧ cypherState 0x0001 8 = 0x0230

/-- EDC_CLEAR (41_edc.md R136), and that it is idempotent. -/
def Obligations.EdcClearCommand : Prop :=
  decode 0x50000000 = .edcClear 0 ∧
  (∀ s, ∃ t, exec (.edcClear 0) s = .next t ∧ t = completed .ok { s with edcAcc := Config.edc.init } ∧
    edcOut t = edcFinal Config.edc Config.edc.init) ∧
  (∀ mbz s, mbz ≠ 0 → exec (.edcClear mbz) s = .next (completed .invalidArgument s)) ∧
  (∀ s t u, exec (.edcClear 0) s = .next t → exec (.edcClear 0) t = .next u → u = { t with draws := u.draws }) ∧
  (∀ s, edcClearBody cand s = ({ s with edcAcc := 0 }, .ok)) ∧ edcFinal cand 0 = 0

/-- EDC_BYTE (41_edc.md R137): one integrator step; after EDC_CLEAR, the bytes of B leave EDC_OUT = EDC(B). The integrator for every
parameter choice, bit by bit: where the byte enters, one shift of each form, eight of them (R131), FINAL (R132), EDC (R133); and the
check values of "Candidate instance". -/
def Obligations.EdcByteCommand : Prop :=
  (∀ byte : Byte, decode (0x60000000 ||| byte.setWidth 32) = .edcByte 0 byte) ∧
  (∀ byte s, exec (.edcByte 0 byte) s = .next (completed .ok { s with edcAcc := edcStep Config.edc s.edcAcc byte })) ∧
  (∀ mbz byte s, mbz ≠ 0 → exec (.edcByte mbz byte) s = .next (completed .invalidArgument s)) ∧
  (∀ bs s, ∃ t, runCommands (.edcClear 0 :: bs.map (fun b => .edcByte 0 b)) s = .next t ∧ edcOut t = edc Config.edc bs) ∧
  edcStep cand 0 0 = 0 ∧ edcStep cand 0 1 = 0x80000011 ∧
  (∀ (p : EdcParams) a (b : Byte), p.refin = false → ∃ x : Word, edcStep p a b = (edcShiftLeft p.poly)^[8] x ∧
    ∀ k, k < 32 → x.getLsbD k = (a.getLsbD k ^^ (decide (24 ≤ k) && b.getLsbD (k - 24)))) ∧
  (∀ (p : EdcParams) a (b : Byte), p.refin = true → ∃ x : Word, edcStep p a b = (edcShiftRight p.poly)^[8] x ∧
    ∀ k, k < 32 → x.getLsbD k = (a.getLsbD k ^^ (decide (k < 8) && b.getLsbD k))) ∧
  (∀ (poly a : Word) k, k < 32 →
    (edcShiftLeft poly a).getLsbD k = ((decide (0 < k) && a.getLsbD (k - 1)) ^^ (a.getLsbD 31 && poly.getLsbD k)) ∧
    (edcShiftRight poly a).getLsbD k = ((decide (k < 31) && a.getLsbD (k + 1)) ^^ (a.getLsbD 0 && poly.getLsbD (31 - k)))) ∧
  (∀ (p : EdcParams) a k, k < 32 →
    (edcFinal p a).getLsbD k = (a.getLsbD (if p.refout = p.refin then k else 31 - k) ^^ p.xorout.getLsbD k)) ∧
  (∀ (p : EdcParams) bs, edc p bs = edcFinal p (bs.foldl (edcStep p) p.init)) ∧
  edc ⟨0x04C11DB7, 0xFFFFFFFF, true, true, 0xFFFFFFFF⟩ digits = 0xCBF43926 ∧
  edc ⟨0x04C11DB7, 0xFFFFFFFF, false, false, 0xFFFFFFFF⟩ digits = 0xFC891918 ∧ edc cand digits = 0xB27CE117

/-- EDC_SECTOR (41_edc.md R138): from EDC_INIT over SECBUF[0:2060], compared with the big-endian trailer; a mismatch is no error.
Over unwritten bytes the command goes on with draws, which is the model's choice (log entry 2). -/
def Obligations.EdcSectorCommand : Prop :=
  decode 0x70000000 = .edcSector 0 ∧
  (∀ s, ∃ t, exec (.edcSector 0) s = .next t ∧ t = completed .ok { s with edcAcc := t.edcAcc, matched := t.matched } ∧
    t.edcAcc = edcFold Config.edc Config.edc.init (headerBytes s ++ payloadBytes s) ∧
    (t.matched = true ↔ edc Config.edc (headerBytes s ++ payloadBytes s) = trailerValue s)) ∧
  (∀ mbz s, mbz ≠ 0 → exec (.edcSector mbz) s = .next (completed .invalidArgument s)) ∧
  (∀ s, (∀ a, 0x1000 ≤ a → a < 0x1810 → byteAt s a = 0) →
    edcSectorBody cand s = ({ s with edcAcc := 0, matched := true }, .ok))

/-- DECODE (42_decode.md R161), by its four outcomes. Unwritten bytes are draws, the model's choice (log entry 2). -/
def Obligations.DecodeCommand : Prop :=
  decode 0x80000000 = .decodeSector 0 ∧
  (∀ s, s.ksLen = 2048 → edc Config.edc (headerBytes s ++ plainBytes s) = trailerValue s →
    ∃ t, exec (.decodeSector 0) s = .next t ∧
      t = completed .ok { s with
        mem := t.mem, edcAcc := edcFold Config.edc Config.edc.init (headerBytes s ++ plainBytes s), matched := true } ∧
      (∀ i, i < 2064 → t.mem.get (0x3000 + i) = (headerBytes s ++ plainBytes s ++ trailerBytes s)[i]?) ∧
      (∀ a, ¬ (0x3000 ≤ a ∧ a < 0x3810) → t.mem.get a = s.mem.get a)) ∧
  (∀ s, s.ksLen = 2048 → edc Config.edc (headerBytes s ++ plainBytes s) ≠ trailerValue s →
    exec (.decodeSector 0) s = .next (completed .badChecksum { s with
      edcAcc := edcFold Config.edc Config.edc.init (headerBytes s ++ plainBytes s), matched := false })) ∧
  (∀ s, s.ksLen ≠ 2048 → exec (.decodeSector 0) s = .next (completed .invalidArgument s)) ∧
  (∀ mbz s, mbz ≠ 0 → exec (.decodeSector mbz) s = .next (completed .invalidArgument s))

/-- SEARCH (43_search_session.md R182, R184), by its four outcomes. Unwritten bytes are draws, the model's choice (log entry 2). -/
def Obligations.SearchCommand : Prop :=
  decode 0x90000000 = .search 0 ∧
  (∀ s (k : Seed), s.seedValid = false → passes s k → (∀ j : Seed, j.toNat < k.toNat → ¬ passes s j) →
    ∃ t, exec (.search 0) s = .next t ∧
      t = completed .ok { s with
        mem := t.mem, ksLen := 2048, seed := k, seedValid := true, matched := true, scanCount := BitVec.ofNat 16 (k.toNat + 1) } ∧
      (∀ i, i < 2048 → t.mem.get (0x2000 + i) = (cypher k 2048)[i]?) ∧
      (∀ a, ¬ (0x2000 ≤ a ∧ a < 0x2800) → t.mem.get a = s.mem.get a)) ∧
  (∀ s, s.seedValid = false → (∀ k : Seed, ¬ passes s k) →
    exec (.search 0) s = .next (completed .seedNotFound { s with matched := false, scanCount := 0x8000 })) ∧
  (∀ s, s.seedValid = true → exec (.search 0) s = .next (completed .invalidArgument s)) ∧
  (∀ mbz s, mbz ≠ 0 → exec (.search mbz) s = .next (completed .invalidArgument s))

/-- SET_SEED (43_search_session.md R186), and that it leaves what a SEARCH that found the seed leaves, but for MATCH and SCAN_COUNT. -/
def Obligations.SetSeedCommand : Prop :=
  (∀ seed : Seed, decode (0xA0000000 ||| seed.setWidth 32) = .setSeed 0 0 seed) ∧
  (∀ seed s, s.seedValid = false → ∃ t, exec (.setSeed 0 0 seed) s = .next t ∧
    t = completed .ok { s with mem := t.mem, ksLen := 2048, seed := seed, seedValid := true } ∧
    (∀ i, i < 2048 → t.mem.get (0x2000 + i) = (cypher seed 2048)[i]?) ∧
    (∀ a, ¬ (0x2000 ≤ a ∧ a < 0x2800) → t.mem.get a = s.mem.get a)) ∧
  (∀ seed s, s.seedValid = true → exec (.setSeed 0 0 seed) s = .next (completed .invalidArgument s)) ∧
  (∀ mbz seed15 seed s, mbz ≠ 0 ∨ seed15 ≠ 0 → exec (.setSeed mbz seed15 seed) s = .next (completed .invalidArgument s)) ∧
  (∀ s t, s.seedValid = false → exec (.search 0) s = .next t → t.err = .ok →
    exec (.setSeed 0 0 t.seed) s = .next { t with matched := s.matched, scanCount := s.scanCount }) ∧
  cypher 0x0123 8 = [0x02, 0x46, 0x4C, 0x45, 0x10, 0x28, 0x25, 0x54] ∧ cypher 0 2048 = zeros 2048

/-- CLEAR_SESSION (43_search_session.md R187): its result, nothing else changes, and it is idempotent. -/
def Obligations.ClearSessionCommand : Prop :=
  decode 0xB0000000 = .clearSession 0 ∧
  (∀ s, exec (.clearSession 0) s = .next (completed .ok { s with seed := 0, seedValid := false, scanCount := 0 })) ∧
  (∀ mbz s, mbz ≠ 0 → exec (.clearSession mbz) s = .next (completed .invalidArgument s)) ∧
  (∀ s t u, exec (.clearSession 0) s = .next t → exec (.clearSession 0) t = .next u → u = { t with draws := u.draws }) ∧
  State.reset.seed = 0 ∧ State.reset.seedValid = false ∧ State.reset.scanCount = 0

/-- Every word of a reserved opcode (30_encoding.md R88) completes with ILLEGAL_COMMAND, code 4, whatever its other bits are. -/
def Obligations.ReservedOpcodes : Prop :=
  (∀ low s, exec (.reserved low) s = .next (completed .illegalCommand s)) ∧ errCode .illegalCommand = 4 ∧
  ∀ c : Word, 0xC ≤ opOf c ↔ ∃ low, decode c = .reserved low

/-! ### All commands at once -/

/-- Every command completes, from every state (60_exceptions.md R213): IDLE, DONE set; and it leaves CMD, OVERRUN, IRQ_EN, SECBUF and
everything that is not the command's alone. Two clauses are the model's choice and no rule's: that EDC_SECTOR, DECODE and SEARCH go on
over unwritten buffer bytes (log entry 2, where R241 and R249 of 70_reset_and_hazards.md name a fault first), and that a command has
a meaning on IDLE states too (log entry 6). -/
def Obligations.EveryCommandCompletes : Prop :=
  ∀ i s, ∃ t, exec i s = .next t ∧ t.phase = .idle ∧ t.done = true ∧ t.cmd = s.cmd ∧ t.overrun = s.overrun ∧ t.irqEn = s.irqEn ∧
    t.rst = s.rst ∧ t.inputs = s.inputs ∧ t.reply = s.reply ∧
    (∀ a, ¬ (0x2000 ≤ a ∧ a < 0x2800) → ¬ (0x3000 ≤ a ∧ a < 0x3810) → t.mem.get a = s.mem.get a)

/-- A command writes no location outside its write set (20_memory.md R64). -/
def Obligations.CommandsWriteOnlyTheirWriteSet : Prop :=
  ∀ i s t, exec i s = .next t → ∀ l : Loc, l ∉ writeSet i → locValue l t = locValue l s

/-- What each failing outcome leaves (60_exceptions.md R212). -/
def Obligations.SideEffectsByOutcome : Prop :=
  ∀ i s t, exec i s = .next t →
    (t.err = .illegalCommand → t = completed .illegalCommand s) ∧
    (t.err = .invalidArgument → t = completed .invalidArgument s) ∧
    (t.err = .badChecksum → t = completed .badChecksum { s with edcAcc := t.edcAcc, matched := false }) ∧
    (t.err = .seedNotFound → t = completed .seedNotFound { s with matched := false, scanCount := 0x8000 })

/-- The result codes, and for each which commands raise it and when, with the value it records (60_exceptions.md R210, R211). A
comparison over unwritten bytes uses draws (log entry 2). -/
def Obligations.ResultCodesAndTheirCommands : Prop :=
  errCode .ok = 0 ∧ errCode .badChecksum = 1 ∧ errCode .seedNotFound = 2 ∧ errCode .invalidArgument = 3 ∧
  errCode .illegalCommand = 4 ∧
  ∀ i s t, exec i s = .next t →
    (t.err = .illegalCommand ↔ ∃ low, i = .reserved low) ∧
    (t.err = .invalidArgument ↔
      badFields (encode i) ∨ (i = .decodeSector 0 ∧ s.ksLen ≠ 2048) ∨
      (s.seedValid = true ∧ (i = .search 0 ∨ ∃ seed, i = .setSeed 0 0 seed))) ∧
    (t.err = .badChecksum ↔
      i = .decodeSector 0 ∧ s.ksLen = 2048 ∧ edc Config.edc (headerBytes s ++ plainBytes s) ≠ trailerValue s) ∧
    (t.err = .seedNotFound ↔ i = .search 0 ∧ s.seedValid = false ∧ ∀ k : Seed, ¬ passes s k) ∧
    (t.err = .badChecksum → edcOut t = edc Config.edc (headerBytes s ++ plainBytes s)) ∧
    (t.err = .seedNotFound → t.scanCount = 0x8000) ∧ t.cmd = s.cmd

/-- EDC_SECTOR, DECODE and SEARCH depend on the buffers, KS_LEN and SEED_VALID alone, on no other register an earlier command left
(90_conflicts.md C5, 41_edc.md R134, 43_search_session.md R183). -/
def Obligations.ResultsIgnoreEarlierRegisters : Prop :=
  ∀ s s' t t' i, i = .edcSector 0 ∨ i = .decodeSector 0 ∨ i = .search 0 →
    s.mem = s'.mem → s.draws = s'.draws → s.ksLen = s'.ksLen → s.seedValid = s'.seedValid → s.matched = s'.matched →
    exec i s = .next t → exec i s' = .next t' →
    t.err = t'.err ∧ t.matched = t'.matched ∧ t.mem = t'.mem ∧ t.ksLen = t'.ksLen ∧ t.seedValid = t'.seedValid ∧
    (t.err = .ok ∨ t.err = .badChecksum → i ≠ .search 0 → t.edcAcc = t'.edcAcc) ∧
    (i = .search 0 → t.err = .ok → t.seed = t'.seed ∧ t.scanCount = t'.scanCount)

/-! ### The keystream (40_lfsr.md) -/

/-- Determinism, length and the prefix law (R103). -/
def Obligations.KeystreamLengthAndPrefix : Prop :=
  (∀ seed n, (cypher seed n).length = n) ∧
  (∀ seed n m, n ≤ m → (cypher seed m).take n = cypher seed n) ∧
  (∀ (len : BitVec 12) seed s s' t t', len.toNat ≤ 2048 → exec (.genKs len 0 seed) s = .next t →
    exec (.genKs len 0 seed) s' = .next t' → ∀ i, i < len.toNat → t.mem.get (0x2000 + i) = t'.mem.get (0x2000 + i))

/-- The first 15 keystream bits are the seed, most significant bit first (R104). -/
def Obligations.FirstKeystreamBitsAreTheSeed : Prop :=
  ∀ seed : Seed,
    (∀ k, k ≤ 14 → outBit seed k = seed.getLsbD (14 - k)) ∧
    cypher seed 1 = [(seed >>> 7).setWidth 8] ∧
    ∃ b0 b1, cypher seed 2 = [b0, b1] ∧ (∀ k, k < 7 → b1.getLsbD (k + 1) = seed.getLsbD k) ∧
      b1.getLsbD 0 = (seed.getLsbD 14 ^^ seed.getLsbD 10)

/-- Zero is a fixed point (R105). -/
def Obligations.ZeroSeedGivesZeros : Prop :=
  lfsrStep 0 = (false, 0) ∧ (∀ n, cypher 0 n = zeros n ∧ cypherState 0 n = 0) ∧
  (∀ bs n, bs.length ≤ n → xorBytes bs (cypher 0 n) = bs) ∧
  (∀ s, s.lfsr = 0 →
    exec (.lfsrStep 0) s = .next (completed .ok { s with outbit := false }) ∧
    exec (.lfsrByte 0) s = .next (completed .ok { s with ksbyte := 0 })) ∧
  State.reset.lfsr = 0

/-- The generator is linear over GF(2) (R106). -/
def Obligations.KeystreamIsLinear : Prop :=
  ∀ (a b : Seed) n, cypher (a ^^^ b) n = xorBytes (cypher a n) (cypher b n) ∧
    cypherState (a ^^^ b) n = cypherState a n ^^^ cypherState b n

/-- Where each output bit stands in the keystream, and the recurrence o(t+15) = o(t+4) ^ o(t) (R106). -/
def Obligations.KeystreamBitsAndRecurrence : Prop :=
  ∀ seed : Seed,
    (∀ n j k, j < n → k < 8 → ((cypher seed n).getD j 0).getLsbD (7 - k) = outBit seed (8 * j + k)) ∧
    (∀ t, outBit seed (t + 15) = (outBit seed (t + 4) ^^ outBit seed t))

/-- The nonzero states lie on one cycle of length 32767 (R106). -/
def Obligations.GeneratorPeriod : Prop :=
  lfsrAfter 0x0001 32767 = 0x0001 ∧ (∀ k, 0 < k → k < 32767 → lfsrAfter 0x0001 k ≠ 0x0001) ∧
  (∀ seed : Seed, seed ≠ 0 → ∃ k, k < 32767 ∧ lfsrAfter 0x0001 k = seed) ∧
  (∀ seed t, outBit seed (t + 32767) = outBit seed t)

/-- Seed to keystream is injective from two bytes on, and not for one byte (R107). -/
def Obligations.KeystreamInjectiveFromTwoBytes : Prop :=
  (∀ (a b : Seed) n, 2 ≤ n → cypher a n = cypher b n → a = b) ∧
  (∀ a b : Seed, a >>> 7 = b >>> 7 → cypher a 1 = cypher b 1) ∧ cypher 0x0000 1 = [0x00] ∧ cypher 0x007F 1 = [0x00]

/-! ### The checksum and the decoder, for every parameter choice -/

/-- The affine law of the EDC, its linear case, and that a seed's trial checksum is affine in the seed (41_edc.md R135). -/
def Obligations.EdcIsAffine : Prop :=
  (∀ (p : EdcParams) (x d : List Byte), x.length = d.length →
    edc p (xorBytes x d) = edc p x ^^^ edc p d ^^^ edc p (zeros x.length) ∧
    (p.init = 0 → p.xorout = 0 → edc p (zeros x.length) = 0 ∧ edc p (xorBytes x d) = edc p x ^^^ edc p d)) ∧
  (∀ (p : EdcParams) (h x : List Byte) (a b : Seed), x.length = 2048 →
    edc p (h ++ xorBytes x (cypher (a ^^^ b) 2048)) =
      edc p (h ++ xorBytes x (cypher a 2048)) ^^^ edc p (h ++ xorBytes x (cypher b 2048)) ^^^ edc p (h ++ x))

/-- With EDC_POLY[0] = 1 a single flipped bit always changes the checksum (41_edc.md R139). -/
def Obligations.SingleBitFlipChangesChecksum : Prop :=
  ∀ (p : EdcParams) (x : List Byte) (i k : Nat) (h : i < x.length), p.poly.getLsbD 0 = true → k < 8 →
    edc p (x.set i (x[i] ^^^ BitVec.twoPow 8 k)) ≠ edc p x

/-- The round trip: scrambling and then decoding with the same keystream gives the sector back (42_decode.md R162). -/
def Obligations.DecodeUndoesScrambling : Prop :=
  ∀ (p : EdcParams) (h plain : List Byte) (seed : Seed), h.length = 12 → plain.length = 2048 →
    (decodeFn p (h ++ xorBytes plain (cypher seed 2048) ++ be32Bytes (edc p (h ++ plain))) (cypher seed 2048)).1 =
      some (h ++ plain ++ be32Bytes (edc p (h ++ plain)))

/-- OUTBUF is written only on a matching checksum, and then holds the DecodedSector (42_decode.md R163); no session state changes
(R164). -/
def Obligations.NoSilentDowngrade : Prop :=
  ∀ s t, exec (.decodeSector 0) s = .next t →
    (t.err = .ok → t.matched = true ∧ s.ksLen = 2048 ∧ edc Config.edc (headerBytes s ++ plainBytes s) = trailerValue s ∧
      ∀ i, i < 2064 → t.mem.get (0x3000 + i) = (headerBytes s ++ plainBytes s ++ trailerBytes s)[i]?) ∧
    (t.err ≠ .ok → t.mem = s.mem) ∧
    (s.ksLen = 2048 → (t.err = .ok ↔ t.matched = true)) ∧
    t.seed = s.seed ∧ t.seedValid = s.seedValid ∧ t.ksLen = s.ksLen ∧
    (∀ a, 0x2000 ≤ a → a < 0x2800 → t.mem.get a = s.mem.get a)

/-- The search gives the lowest seed whose trial passes, over all 0x8000 seeds (43_search_session.md R180, R181). -/
def Obligations.SearchGivesTheLowestSeed : Prop :=
  ∀ (p : EdcParams) (img : List Byte),
    (∀ k, trial p img k = (decodeFn p img (cypher k 2048)).1.isSome) ∧
    (∀ k, trial p img k = true ↔
      edc p (slice img 0 12 ++ xorBytes (slice img 12 2060) (cypher k 2048)) = be32 (slice img 2060 2064)) ∧
    (∀ k, searchFn p img = some k ↔ (trial p img k = true ∧ ∀ j : Seed, j.toNat < k.toNat → trial p img j = false)) ∧
    (searchFn p img = none ↔ ∀ k : Seed, trial p img k = false)

/-- Which seeds pass (43_search_session.md R185): with EDC_INIT and EDC_XOROUT zero a trial compares R(s), linear in s, with a value of
the sample; under the candidate instance CAND, which is not normative, at most one seed passes any sample. -/
def Obligations.CandidateAcceptsAtMostOneSeed : Prop :=
  (∀ (p : EdcParams) (img : List Byte) (k : Seed), p.init = 0 → p.xorout = 0 → img.length = 2064 →
    (trial p img k = true ↔ edc p (zeros 12 ++ cypher k 2048) = edc p (slice img 0 2060) ^^^ be32 (slice img 2060 2064))) ∧
  (∀ (p : EdcParams) (a b : Seed), p.init = 0 → p.xorout = 0 →
    edc p (zeros 12 ++ cypher (a ^^^ b) 2048) = edc p (zeros 12 ++ cypher a 2048) ^^^ edc p (zeros 12 ++ cypher b 2048)) ∧
  (∀ (img : List Byte) (a b : Seed), img.length = 2064 → trial cand img a = true → trial cand img b = true → a = b)

/-! ### The step -/

/-- A step runs the latched command: with the engine BUSY(c) and its turn come, `step` is the meaning of the command c decodes to.
That its turn comes when no event waits, and how a word is placed, are the model's readings (log entries 5 and 8). -/
def Obligations.StepRunsTheLatchedCommand : Prop :=
  (∀ s c i, s.rst = false → s.phase = .busy c → decode c = i →
    (s.inputs = [] → step s = exec i s) ∧
    (∀ rest, s.inputs = .engine :: rest → step s = exec i { s with inputs := rest })) ∧
  (∀ s, s.phase = .idle → s.inputs = [] → step s = .next s) ∧
  (∀ (s : State) w, w < 2 ^ 32 → ∃ u, u.phase = .busy (BitVec.ofNat 32 w) ∧ u.cmd = BitVec.ofNat 32 w ∧ s.withFetchWord 32 w = u ∧
    step u = exec (decode (BitVec.ofNat 32 w)) u)

/-- A write to CMD (30_encoding.md R80, 10_state.md R25, 60_exceptions.md R214): issued while IDLE, dropped with OVERRUN while BUSY. -/
def Obligations.CmdWriteIssuesOrDrops : Prop :=
  ∀ s c rest, s.rst = false → s.inputs = .write 4 0x000 c :: rest →
    (s.phase = .idle →
      step s = .next { s with inputs := rest, phase := .busy c, cmd := c, done := false, reply := .accepted }) ∧
    (∀ w, s.phase = .busy w → step s = .next { s with inputs := rest, overrun := true, reply := .accepted })

/-- A write to SECBUF (20_memory.md R52, R56, R63): one byte, or four in little-endian lanes; dropped with OVERRUN while BUSY. -/
def Obligations.SecbufWrites : Prop :=
  ∀ s n (off : Offset) v rest, s.rst = false → s.inputs = .write n off v :: rest → 0x1000 ≤ off.toNat → off.toNat < 0x1810 →
    n = 1 ∨ (n = 4 ∧ off.toNat % 4 = 0) →
    (s.phase = .idle → ∃ t, step s = .next t ∧ t = { s with inputs := rest, mem := t.mem, reply := .accepted } ∧
      (∀ k, k < n → t.mem.get (off.toNat + k) = some (v.extractLsb' (8 * k) 8)) ∧
      (∀ a, ¬ (off.toNat ≤ a ∧ a < off.toNat + n) → t.mem.get a = s.mem.get a)) ∧
    (∀ w, s.phase = .busy w → step s = .next { s with inputs := rest, overrun := true, reply := .accepted })

/-- Writes that are ignored with no error: the read-only registers, KSBUF and OUTBUF (20_memory.md R56), in both phases. -/
def Obligations.IgnoredWrites : Prop :=
  ∀ s n (off : Offset) v rest, s.rst = false → s.inputs = .write n off v :: rest →
    (n = 4 ∧ off.toNat ∈ [0x008, 0x00C, 0x010, 0x014, 0x018, 0x01C, 0x020]) ∨
      (((0x2000 ≤ off.toNat ∧ off.toNat < 0x2800) ∨ (0x3000 ≤ off.toNat ∧ off.toNat < 0x3810)) ∧
        (n = 1 ∨ (n = 4 ∧ off.toNat % 4 = 0))) →
    step s = .next { s with inputs := rest, reply := .accepted }

/-- Writes to STATUS and IRQ_EN (10_state.md R26, R34), in both phases. -/
def Obligations.StatusAndIrqEnWrites : Prop :=
  (∀ s v rest, s.rst = false → s.inputs = .write 4 0x004 v :: rest →
    step s = .next { s with
      inputs := rest, reply := .accepted, done := s.done && !v.getLsbD 1, overrun := s.overrun && !v.getLsbD 16 }) ∧
  (∀ s v rest, s.rst = false → s.inputs = .write 4 0x024 v :: rest →
    step s = .next { s with inputs := rest, reply := .accepted, irqEn := v.getLsbD 0 })

/-- Exactly the accesses R54 does not allow are bus errors, reads and writes alike (20_memory.md R54, R57, R58). That a legal read of
unwritten bytes has a next state is the model's choice (log entry 2; 70_reset_and_hazards.md R241 names a fault first). -/
def Obligations.BusErrorsExactly : Prop :=
  ∀ s n (off : Offset) v rest, s.rst = false → (s.inputs = .read n off :: rest ∨ s.inputs = .write n off v :: rest) →
    (legalAccess n off.toNat → ∃ t, step s = .next t) ∧
    (¬ legalAccess n off.toNat → ∃ why, step s = .fault (.busError why))

/-- Nothing but a bus error stops the machine (60_exceptions.md R217, 20_memory.md R58): a state with no illegal access at the head of
its inputs has a next state, and no state is refused. That unwritten bytes do not stop it either, read by the host or used by a
command, is the model's choice (log entry 2; 70_reset_and_hazards.md R241 and R249 name a fault first). -/
def Obligations.OnlyBusErrorsStop : Prop :=
  ∀ s, (∃ t, step s = .next t) ∨
    (s.rst = false ∧ ∃ why n off v rest, step s = .fault (.busError why) ∧ ¬ legalAccess n (BitVec.toNat off) ∧
      (s.inputs = .read n off :: rest ∨ s.inputs = .write n off v :: rest))

/-- What a read returns while IDLE (10_state.md R25 to R34, 20_memory.md R52, R55). Unwritten bytes read as draws, the model's choice
(log entry 2). -/
def Obligations.ReadsWhileIdle : Prop :=
  ∀ s n (off : Offset) rest, s.rst = false → s.phase = .idle → s.inputs = .read n off :: rest → legalAccess n off.toNat →
    ∃ v, step s = .next { s with inputs := rest, reply := .data v, draws := s.draws + 1 } ∧
      (off = 0x000 → v = s.cmd) ∧
      (off = 0x004 → v.toNat = s.done.toNat * 2 + s.matched.toNat * 4 + s.outbit.toNat * 8 + s.seedValid.toNat * 16 +
        (errCode s.err).toNat * 256 + s.overrun.toNat * 65536) ∧
      (off = 0x008 → v = s.lfsr.setWidth 32) ∧ (off = 0x00C → v = s.ksbyte.setWidth 32) ∧ (off = 0x010 → v = s.edcAcc) ∧
      (off = 0x014 → v = edcFinal Config.edc s.edcAcc) ∧ (off = 0x018 → v = s.seed.setWidth 32) ∧
      (off = 0x01C → v = s.ksLen.setWidth 32) ∧ (off = 0x020 → v = s.scanCount.setWidth 32) ∧
      (off = 0x024 → v.toNat = s.irqEn.toNat) ∧
      (0x1000 ≤ off.toNat → n = 1 → v = (byteAt s off.toNat).setWidth 32) ∧
      (0x1000 ≤ off.toNat → n = 4 → ∀ k, k < 4 → v.extractLsb' (8 * k) 8 = byteAt s (off.toNat + k))

/-- What a read returns while a command runs (20_memory.md R62, R64): STATUS field by field, draws inside the write set, values
outside it. The reserved bits above a drawn field read 0 (10_state.md R35), which is the model's reading (log entry 3). -/
def Obligations.ReadsWhileBusy : Prop :=
  ∀ s c n (off : Offset) rest, s.rst = false → s.phase = .busy c → s.inputs = .read n off :: rest → legalAccess n off.toNat →
    ∃ v, step s = .next { s with inputs := rest, reply := .data v, draws := s.draws + 1 } ∧
      (off = 0x000 → v = s.cmd) ∧
      (off = 0x004 → v.getLsbD 0 = true ∧ v.getLsbD 1 = false ∧ v.getLsbD 16 = s.overrun ∧
        v.extractLsb' 8 3 = (Config.draw s.draws).extractLsb' 8 3 ∧
        v.getLsbD 2 = (if Loc.matchFlag ∈ writeSet (decode c) then (Config.draw s.draws).getLsbD 2 else s.matched) ∧
        v.getLsbD 3 = (if Loc.outbitFlag ∈ writeSet (decode c) then (Config.draw s.draws).getLsbD 3 else s.outbit) ∧
        v.getLsbD 4 = (if Loc.seedValidFlag ∈ writeSet (decode c) then (Config.draw s.draws).getLsbD 4 else s.seedValid)) ∧
      (off = 0x008 → v = (if Loc.lfsr ∈ writeSet (decode c) then (Config.draw s.draws).extractLsb' 0 15 else s.lfsr).setWidth 32) ∧
      (off = 0x00C → v = (if Loc.ksbyte ∈ writeSet (decode c) then (Config.draw s.draws).extractLsb' 0 8 else s.ksbyte).setWidth 32) ∧
      (off = 0x010 → v = if Loc.edcAcc ∈ writeSet (decode c) then Config.draw s.draws else s.edcAcc) ∧
      (off = 0x014 → v = if Loc.edcOut ∈ writeSet (decode c) then Config.draw s.draws else edcFinal Config.edc s.edcAcc) ∧
      (off = 0x018 → v = (if Loc.seed ∈ writeSet (decode c) then (Config.draw s.draws).extractLsb' 0 15 else s.seed).setWidth 32) ∧
      (off = 0x01C → v = (if Loc.ksLen ∈ writeSet (decode c) then (Config.draw s.draws).extractLsb' 0 12 else s.ksLen).setWidth 32) ∧
      (off = 0x020 →
        v = (if Loc.scanCount ∈ writeSet (decode c) then (Config.draw s.draws).extractLsb' 0 16 else s.scanCount).setWidth 32) ∧
      (off = 0x024 → v.toNat = s.irqEn.toNat) ∧
      (0x1000 ≤ off.toNat → n = 4 →
        if (off.toNat / 0x1000 = 2 ∧ Loc.ksbuf ∈ writeSet (decode c)) ∨ (off.toNat / 0x1000 = 3 ∧ Loc.outbuf ∈ writeSet (decode c))
        then v = Config.draw s.draws else ∀ k, k < 4 → v.extractLsb' (8 * k) 8 = byteAt s (off.toNat + k)) ∧
      (0x1000 ≤ off.toNat → n = 1 →
        if (off.toNat / 0x1000 = 2 ∧ Loc.ksbuf ∈ writeSet (decode c)) ∨ (off.toNat / 0x1000 = 3 ∧ Loc.outbuf ∈ writeSet (decode c))
        then v = ((Config.draw s.draws).extractLsb' 0 8).setWidth 32 else v = (byteAt s off.toNat).setWidth 32)

/-- No read has a side effect, and two reads in a row of the same place, with the engine IDLE and the place a register or written bytes,
return the same value (20_memory.md R59). An unwritten byte is a draw (70_reset_and_hazards.md R241, log entry 2). -/
def Obligations.ReadsHaveNoSideEffect : Prop :=
  ∀ s n (off : Offset) rest t, s.rst = false → s.inputs = .read n off :: rest → step s = .next t →
    t = { s with inputs := rest, reply := t.reply, draws := s.draws + 1 } ∧
    (∀ rest' u, s.phase = .idle → rest = .read n off :: rest' →
      (off.toNat < 0x28 ∨ ∀ k, k < n → (s.mem.get (off.toNat + k)).isSome = true) → step t = .next u → u.reply = t.reply)

/-- Reserved register bits read 0, in every state and phase (10_state.md R24, R35). -/
def Obligations.ReservedBitsReadZero : Prop :=
  ∀ s, readReg .status s &&& 0xFFFEF8E0 = 0 ∧ readReg .lfsr s &&& 0xFFFF8000 = 0 ∧ readReg .ksbyte s &&& 0xFFFFFF00 = 0 ∧
    readReg .seed s &&& 0xFFFF8000 = 0 ∧ readReg .ksLen s &&& 0xFFFFF000 = 0 ∧ readReg .scanCount s &&& 0xFFFF0000 = 0 ∧
    readReg .irqEn s &&& 0xFFFFFFFE = 0

/-- A 32-bit read of the trailing checksum returns it byte-swapped (20_memory.md R53); unwritten bytes are draws (log entry 2). -/
def Obligations.TrailerReadsByteSwapped : Prop :=
  ∀ s rest, s.rst = false → s.inputs = .read 4 0x180C :: rest →
    ∃ v, step s = .next { s with inputs := rest, reply := .data v, draws := s.draws + 1 } ∧
      (v = trailerValue s ↔ byteAt s 0x180C = byteAt s 0x180F ∧ byteAt s 0x180D = byteAt s 0x180E)

/-- The interrupt line (60_exceptions.md R215, R216): DONE & IRQ_EN[0]; raised by every completion if enabled, whatever the code;
dropped by the next issue and by a clear of DONE; raised by enabling while DONE is set; blind to OVERRUN. -/
def Obligations.InterruptLine : Prop :=
  (∀ s, irqLine s = (s.done && s.irqEn)) ∧
  (∀ i s t, exec i s = .next t → irqLine t = s.irqEn) ∧
  (∀ s c rest t, s.rst = false → s.inputs = .write 4 0x000 c :: rest → s.phase = .idle → step s = .next t → irqLine t = false) ∧
  (∀ s v rest t, s.rst = false → s.inputs = .write 4 0x004 v :: rest → v.getLsbD 1 = true → step s = .next t →
    irqLine t = false) ∧
  (∀ s v rest t, s.rst = false → s.inputs = .write 4 0x024 v :: rest → step s = .next t →
    t.done = s.done ∧ irqLine t = (s.done && v.getLsbD 0)) ∧
  (∀ s b, irqLine { s with overrun := b } = irqLine s)

/-! ### Reset -/

/-- What reset leaves (70_reset_and_hazards.md R240, R242). -/
def Obligations.ResetValues : Prop :=
  State.reset.phase = .idle ∧ State.reset.cmd = 0 ∧ statusWord State.reset = 0 ∧ State.reset.err = .ok ∧ State.reset.lfsr = 0 ∧
  State.reset.ksbyte = 0 ∧ State.reset.edcAcc = Config.edc.init ∧ edcOut State.reset = edcFinal Config.edc Config.edc.init ∧
  State.reset.seed = 0 ∧ State.reset.ksLen = 0 ∧ State.reset.scanCount = 0 ∧ State.reset.irqEn = false ∧
  irqLine State.reset = false ∧ (∀ a, State.reset.mem.get a = none) ∧ State.reset.rst = false

/-- RST (70_reset_and_hazards.md R240): while it is asserted no access is served and the engine does nothing; its release leaves the
reset state, a running command abandoned. Asserting it alone changes only the level, which is the model's choice (log entry 7). -/
def Obligations.ResetInput : Prop :=
  (∀ s rest, s.inputs = .rst true :: rest → step s = .next { s with inputs := rest, rst := true }) ∧
  (∀ s rest, s.rst = true → s.inputs = .rst false :: rest →
    step s = .next { State.reset with inputs := rest, draws := s.draws + 1 }) ∧
  (∀ s n off rest, s.rst = true → s.inputs = .read n off :: rest → step s = .next { s with inputs := rest, reply := .unserved }) ∧
  (∀ s n off v rest, s.rst = true → s.inputs = .write n off v :: rest →
    step s = .next { s with inputs := rest, reply := .unserved }) ∧
  (∀ s, s.rst = true → s.inputs = [] → step s = .next s) ∧
  (∀ s rest, s.rst = true → s.inputs = .engine :: rest → step s = .next { s with inputs := rest })

/-! ### Whole-machine rules -/

/-- A STATUS read right after an accepted CMD write returns BUSY = 1; with the completion in between, BUSY = 0 and DONE = 1
(20_memory.md R65). -/
def Obligations.StatusReadAfterIssue : Prop :=
  (∀ s c rest t u, s.rst = false → s.phase = .idle → s.inputs = .write 4 0x000 c :: .read 4 0x004 :: rest →
    step s = .next t → step t = .next u → ∃ v, u.reply = .data v ∧ v.getLsbD 0 = true ∧ v.getLsbD 1 = false) ∧
  (∀ s c rest t u w, s.rst = false → s.phase = .idle → s.inputs = .write 4 0x000 c :: .engine :: .read 4 0x004 :: rest →
    step s = .next t → step t = .next u → step u = .next w → ∃ v, w.reply = .data v ∧ v.getLsbD 0 = false ∧ v.getLsbD 1 = true)

/-- Every step keeps the invariant: canonical memory inside the buffers, KS_LEN and SCAN_COUNT in range, the leading KSBUF bytes
written, CMD the running word with DONE 0, SEED 0 outside a session. -/
def Obligations.EveryStepKeepsTheInvariant : Prop := ∀ s t : State, s.Inv → step s = .next t → t.Inv

/-- The invariant holds right after reset. -/
def Obligations.ResetMeetsTheInvariant : Prop := State.reset.Inv

/-- The session seed is single-assignment (43_search_session.md R189): while SEED_VALID is 1 no step changes SEED or SEED_VALID but the
completion of CLEAR_SESSION and the release of RST; and only SEARCH and SET_SEED set SEED_VALID. -/
def Obligations.SessionSeedIsSingleAssignment : Prop :=
  (∀ s t : State, s.seedValid = true → step s = .next t →
    (t.seedValid = true ∧ t.seed = s.seed) ∨
    (t.seedValid = false ∧ t.seed = 0 ∧ (s.rst = true ∨ (s.rst = false ∧ s.phase = .busy 0xB0000000)))) ∧
  (∀ s t : State, s.seedValid = false → step s = .next t →
    (t.seedValid = false ∧ (t.seed = s.seed ∨ t.seed = 0)) ∨
    (s.rst = false ∧ t.seedValid = true ∧ t.err = .ok ∧ t.phase = .idle ∧
      ∃ c, s.phase = .busy c ∧ (c = 0x90000000 ∨ c = 0xA0000000 ||| t.seed.setWidth 32)))

/-- While a command runs, no step changes SECBUF or the latched word, until the command completes or RST is released
(20_memory.md R63, R68). -/
def Obligations.SampleIsImmutableWhileBusy : Prop :=
  ∀ (s t : State) (c : Word), s.phase = .busy c → step s = .next t →
    (t.phase = .busy c ∧ t.cmd = s.cmd ∧ t.mem = s.mem) ∨
    (s.rst = false ∧ t.phase = .idle ∧ t.done = true ∧ t.cmd = s.cmd ∧
      ∀ a, 0x1000 ≤ a → a < 0x1810 → t.mem.get a = s.mem.get a) ∨
    (s.rst = true ∧ t.phase = .idle ∧ t.done = false ∧ t.mem = [])

/-- Who writes each register, flag and buffer (10_state.md R23 to R38, 43_search_session.md R184). With RST released: the completion
step of a command named here, the host's CMD write while IDLE (CMD, DONE, the phase), its STATUS write (DONE, OVERRUN), its dropped
write while BUSY (OVERRUN), its IRQ_EN write, its SECBUF write while IDLE. Under RST: its release alone (log entry 7). -/
def Obligations.WhoWritesEachLocation : Prop :=
  (∀ s t : State, s.rst = false → step s = .next t →
    (t.lfsr ≠ s.lfsr → completesOneOf [0x1, 0x2, 0x3, 0x4] s t) ∧ (t.ksbyte ≠ s.ksbyte → completesOneOf [0x3] s t) ∧
    (t.edcAcc ≠ s.edcAcc → completesOneOf [0x5, 0x6, 0x7, 0x8] s t) ∧ (t.seed ≠ s.seed → completesOneOf [0x9, 0xA, 0xB] s t) ∧
    (t.ksLen ≠ s.ksLen → completesOneOf [0x4, 0x9, 0xA] s t) ∧ (t.scanCount ≠ s.scanCount → completesOneOf [0x9, 0xB] s t) ∧
    (t.matched ≠ s.matched → completesOneOf [0x7, 0x8, 0x9] s t) ∧ (t.outbit ≠ s.outbit → completesOneOf [0x2] s t) ∧
    (t.seedValid ≠ s.seedValid → completesOneOf [0x9, 0xA, 0xB] s t) ∧
    (t.err ≠ s.err → ∃ c, completes c s t) ∧
    (t.cmd ≠ s.cmd → s.phase = .idle ∧ hostWrites 4 0x000 t.cmd s) ∧
    (t.phase ≠ s.phase →
      (∃ c, completes c s t) ∨ (s.phase = .idle ∧ ∃ c, hostWrites 4 0x000 c s ∧ t.phase = .busy c)) ∧
    (t.done ≠ s.done →
      if t.done = true then ∃ c, completes c s t
      else (s.phase = .idle ∧ ∃ c, hostWrites 4 0x000 c s) ∨ ∃ v, hostWrites 4 0x004 v s ∧ v.getLsbD 1 = true) ∧
    (t.overrun ≠ s.overrun →
      if t.overrun = true
      then (∃ c, s.phase = .busy c) ∧ ∃ n off v, hostWrites n off v s ∧ (off = 0x000 ∨ inSecbuf (BitVec.toNat off))
      else ∃ v, hostWrites 4 0x004 v s ∧ v.getLsbD 16 = true) ∧
    (t.irqEn ≠ s.irqEn → ∃ v, hostWrites 4 0x024 v s ∧ t.irqEn = v.getLsbD 0) ∧
    (t.rst = true → ∃ rest, s.inputs = .rst true :: rest) ∧
    (∀ a, t.mem.get a ≠ s.mem.get a →
      (0x2000 ≤ a ∧ a < 0x2800 ∧ completesOneOf [0x4, 0x9, 0xA] s t) ∨
      (0x3000 ≤ a ∧ a < 0x3810 ∧ completesOneOf [0x8] s t) ∨
      (inSecbuf a ∧ s.phase = .idle ∧ ∃ n off v, hostWrites n off v s ∧ BitVec.toNat off ≤ a ∧ a < BitVec.toNat off + n))) ∧
  (∀ s t : State, s.rst = true → step s = .next t →
    t = { s with inputs := t.inputs, reply := t.reply } ∨
    ∃ rest, s.inputs = .rst false :: rest ∧ t = { State.reset with inputs := rest, draws := s.draws + 1 })

/-- OVERRUN is set by a dropped write alone and stays until the host clears it or RST is released (60_exceptions.md R214); a dropped
write changes neither ERR, DONE nor the running command, and not the interrupt line. -/
def Obligations.OverrunIsSticky : Prop :=
  (∀ s t : State, s.overrun = true → step s = .next t →
    t.overrun = true ∨ s.rst = true ∨ ∃ v rest, s.inputs = .write 4 0x004 v :: rest ∧ v.getLsbD 16 = true) ∧
  (∀ s t : State, s.overrun = false → step s = .next t → t.overrun = true →
    (∃ c, s.phase = .busy c ∧ t.phase = .busy c) ∧ t.cmd = s.cmd ∧ t.err = s.err ∧ t.done = s.done ∧ t.mem = s.mem ∧
    irqLine t = irqLine s ∧
    ∃ n off v rest, s.inputs = .write n off v :: rest ∧
      (off = 0x000 ∨ (0x1000 ≤ BitVec.toNat off ∧ BitVec.toNat off < 0x1810)))

/-! ### Host statements (30_encoding.md R91, R92) -/

/-- `LOADSEC S` fills SECBUF with S from every IDLE state, in its 516 accesses (30_encoding.md R92). -/
def Obligations.LoadsecFillsTheSectorBuffer : Prop :=
  ∀ (s : State) (img : List Byte) (es rest : List Event), s.rst = false → s.phase = .idle → img.length = 2064 →
    expand (.loadSec img) = some es → s.inputs = es ++ rest →
    ∃ t, core.run 516 s = .next t ∧ t = { s with inputs := rest, mem := t.mem, reply := .accepted } ∧
      (∀ i, i < 2064 → t.mem.get (0x1000 + i) = img[i]?) ∧
      (∀ a, ¬ (0x1000 ≤ a ∧ a < 0x1810) → t.mem.get a = s.mem.get a)

/-- The assembler gives each mnemonic its own word (30_encoding.md R87): the base word, with seed, len or byte in its place. It gives
only legal words, but for `.word`, and refuses exactly the operands out of range (R91). -/
def Obligations.AssemblerGivesLegalWords : Prop :=
  assemble .nop = some 0x00000000 ∧ assemble .lfsrStep = some 0x20000000 ∧ assemble .lfsrByte = some 0x30000000 ∧
  assemble .edcClear = some 0x50000000 ∧ assemble .edcSector = some 0x70000000 ∧ assemble .decodeSector = some 0x80000000 ∧
  assemble .search = some 0x90000000 ∧ assemble .clearSession = some 0xB0000000 ∧
  (∀ n, n ≤ 0x7FFF → assemble (.lfsrLoad n) = some (0x10000000 ||| BitVec.ofNat 32 n)) ∧
  (∀ n, n ≤ 0x7FFF → assemble (.setSeed n) = some (0xA0000000 ||| BitVec.ofNat 32 n)) ∧
  (∀ n l, n ≤ 0x7FFF → l ≤ 2048 →
    assemble (.genKs n l) = some (0x40000000 ||| (BitVec.ofNat 32 l <<< 16) ||| BitVec.ofNat 32 n)) ∧
  (∀ n, n ≤ 0xFF → assemble (.edcByte n) = some (0x60000000 ||| BitVec.ofNat 32 n)) ∧
  (∀ a w, (∀ v, a ≠ .word v) → assemble a = some w → ∃ i, decodeLegal w = .ok i) ∧
  (∀ n, assemble (.lfsrLoad n) = none ↔ 0x7FFF < n) ∧ (∀ n, assemble (.setSeed n) = none ↔ 0x7FFF < n) ∧
  (∀ n l, assemble (.genKs n l) = none ↔ (0x7FFF < n ∨ 2048 < l)) ∧ (∀ n, assemble (.edcByte n) = none ↔ 0xFF < n) ∧
  (∀ n, assemble (.genSectorKs n) = assemble (.genKs n 2048)) ∧ (∀ w, assemble (.word w) = some w)
end

