-- ==== Sys2Proof/Laws/PerInstr.lean ====
section
/-! SUPPORT. Facts about the command set stated once per constructor: where the opcode stands in the encoded word
(30_encoding.md R81, R87, R88). -/

namespace Sys2Proof

/-- The OP values a command's row of the opcode map admits (30_encoding.md R87, R88). -/
def Instr.ops : Instr → List Nat
  | .nop _ => [0x0]
  | .lfsrLoad _ _ _ => [0x1]
  | .lfsrStep _ => [0x2]
  | .lfsrByte _ => [0x3]
  | .genKs _ _ _ => [0x4]
  | .edcClear _ => [0x5]
  | .edcByte _ _ => [0x6]
  | .edcSector _ => [0x7]
  | .decodeSector _ => [0x8]
  | .search _ => [0x9]
  | .setSeed _ _ _ => [0xA]
  | .clearSession _ => [0xB]
  | .reserved _ => [0xC, 0xD, 0xE, 0xF]

/-- c[31:28] of the encoded word is an OP of the command's row. -/
def Laws.OpField.Statement (i : Instr) : Prop := ((encode i).toNat / 2 ^ 28) ∈ i.ops

/-- The top field of a word is the quotient by the fields below it. -/
theorem toNat_append_div {m n : Nat} (a : BitVec m) (b : BitVec n) : (a ++ b).toNat / 2 ^ n = a.toNat := by
  rw [BitVec.toNat_append, ← Nat.shiftLeft_add_eq_or_of_lt b.isLt, Nat.shiftLeft_eq, Nat.mul_comm,
    Nat.mul_add_div (Nat.two_pow_pos n), Nat.div_eq_of_lt b.isLt, Nat.add_zero]

theorem toNat_append3_div {k m n : Nat} (op : BitVec 4) (a : BitVec k) (b : BitVec m) (c : BitVec n) (h : k + m + n = 28) :
    (op ++ a ++ b ++ c).toNat / 2 ^ 28 = op.toNat := by
  have e : 2 ^ 28 = 2 ^ n * (2 ^ m * 2 ^ k) := by
    rw [← Nat.pow_add, ← Nat.pow_add]; congr 1; omega
  rw [e, ← Nat.div_div_eq_div_mul, toNat_append_div, ← Nat.div_div_eq_div_mul, toNat_append_div, toNat_append_div]

theorem toNat_append2_div {k m : Nat} (op : BitVec 4) (a : BitVec k) (b : BitVec m) (h : k + m = 28) :
    (op ++ a ++ b).toNat / 2 ^ 28 = op.toNat := by
  have e : 2 ^ 28 = 2 ^ m * 2 ^ k := by
    rw [← Nat.pow_add]; congr 1; omega
  rw [e, ← Nat.div_div_eq_div_mul, toNat_append_div, toNat_append_div]

namespace Laws.OpField

theorem ofEq {i : Instr} {op : Nat} (h : (encode i).toNat / 2 ^ 28 = op) (hm : i.ops = [op]) : Statement i := by
  unfold Statement; rw [h, hm]; exact List.mem_singleton.mpr rfl

theorem nop (mbz : BitVec 28) : Statement (.nop mbz) := ofEq (toNat_append_div 0x0#4 mbz) rfl
theorem lfsrLoad (mbz : BitVec 12) (seed15 : BitVec 1) (seed : Seed) : Statement (.lfsrLoad mbz seed15 seed) :=
  ofEq (toNat_append3_div 0x1#4 mbz seed15 seed rfl) rfl
theorem lfsrStep (mbz : BitVec 28) : Statement (.lfsrStep mbz) := ofEq (toNat_append_div 0x2#4 mbz) rfl
theorem lfsrByte (mbz : BitVec 28) : Statement (.lfsrByte mbz) := ofEq (toNat_append_div 0x3#4 mbz) rfl
theorem genKs (len : BitVec 12) (seed15 : BitVec 1) (seed : Seed) : Statement (.genKs len seed15 seed) :=
  ofEq (toNat_append3_div 0x4#4 len seed15 seed rfl) rfl
theorem edcClear (mbz : BitVec 28) : Statement (.edcClear mbz) := ofEq (toNat_append_div 0x5#4 mbz) rfl
theorem edcByte (mbz : BitVec 20) (byte : Byte) : Statement (.edcByte mbz byte) :=
  ofEq (toNat_append2_div 0x6#4 mbz byte rfl) rfl
theorem edcSector (mbz : BitVec 28) : Statement (.edcSector mbz) := ofEq (toNat_append_div 0x7#4 mbz) rfl
theorem decodeSector (mbz : BitVec 28) : Statement (.decodeSector mbz) := ofEq (toNat_append_div 0x8#4 mbz) rfl
theorem search (mbz : BitVec 28) : Statement (.search mbz) := ofEq (toNat_append_div 0x9#4 mbz) rfl
theorem setSeed (mbz : BitVec 12) (seed15 : BitVec 1) (seed : Seed) : Statement (.setSeed mbz seed15 seed) :=
  ofEq (toNat_append3_div 0xA#4 mbz seed15 seed rfl) rfl
theorem clearSession (mbz : BitVec 28) : Statement (.clearSession mbz) := ofEq (toNat_append_div 0xB#4 mbz) rfl

theorem reserved (low : BitVec 30) : Statement (.reserved low) := by
  have h : (encode (.reserved low)).toNat / 2 ^ 30 = 3 := toNat_append_div 0b11#2 low
  have lt : (encode (.reserved low)).toNat < 2 ^ 32 := (encode (.reserved low)).isLt
  have : (encode (.reserved low)).toNat / 2 ^ 28 = 12 ∨ (encode (.reserved low)).toNat / 2 ^ 28 = 13 ∨
      (encode (.reserved low)).toNat / 2 ^ 28 = 14 ∨ (encode (.reserved low)).toNat / 2 ^ 28 = 15 := by omega
  unfold Statement Instr.ops
  simp only [List.mem_cons, List.not_mem_nil, or_false]
  omega

end Laws.OpField

end Sys2Proof
end

