-- ==== Sys2Proof/Laws/Bits.lean ====
section
/-! SUPPORT. Pulling fields out of an appended word, the lanes of a word, and the opcode of a decoded word. -/

namespace Sys2Proof

/-- A field inside the low part of an append. -/
theorem extract_append_low {m n : Nat} (a : BitVec m) (b : BitVec n) (st w : Nat) (h : st + w ≤ n) :
    (a ++ b).extractLsb' st w = b.extractLsb' st w := by
  apply BitVec.eq_of_getLsbD_eq
  intro k hk
  simp only [BitVec.getLsbD_extractLsb', BitVec.getLsbD_append, hk, decide_true, Bool.true_and]
  rw [if_pos (by omega)]

/-- A field inside the high part of an append. -/
theorem extract_append_high {m n : Nat} (a : BitVec m) (b : BitVec n) (st w : Nat) (h : n ≤ st) :
    (a ++ b).extractLsb' st w = a.extractLsb' (st - n) w := by
  apply BitVec.eq_of_getLsbD_eq
  intro k hk
  simp only [BitVec.getLsbD_extractLsb', BitVec.getLsbD_append, hk, decide_true, Bool.true_and]
  rw [if_neg (by omega)]
  congr 1
  omega

theorem extract_whole {n : Nat} (b : BitVec n) : b.extractLsb' 0 n = b := by
  apply BitVec.eq_of_getLsbD_eq
  intro k hk
  simp [hk]

/-- OP of a word as a number (30_encoding.md R81). -/
theorem op_toNat (c : Word) : (c.extractLsb' 28 4).toNat = c.toNat / 2 ^ 28 := by
  have := c.isLt
  simp only [BitVec.extractLsb'_toNat, Nat.shiftRight_eq_div_pow]
  omega

/-- Lane k of a little-endian word is the k-th byte (20_memory.md R52). -/
theorem le32_lane (b0 b1 b2 b3 : Byte) :
    (Machine.le32 b0 b1 b2 b3).extractLsb' 0 8 = b0 ∧ (Machine.le32 b0 b1 b2 b3).extractLsb' 8 8 = b1 ∧
    (Machine.le32 b0 b1 b2 b3).extractLsb' 16 8 = b2 ∧ (Machine.le32 b0 b1 b2 b3).extractLsb' 24 8 = b3 := by
  refine ⟨?_, ?_, ?_, ?_⟩
  · exact (extract_append_low (b3 ++ b2 ++ b1) b0 0 8 (by omega)).trans (extract_whole b0)
  · exact ((extract_append_high (b3 ++ b2 ++ b1) b0 8 8 (by omega)).trans
      (extract_append_low (b3 ++ b2) b1 0 8 (by omega))).trans (extract_whole b1)
  · exact (((extract_append_high (b3 ++ b2 ++ b1) b0 16 8 (by omega)).trans
      (extract_append_high (b3 ++ b2) b1 8 8 (by omega))).trans
      (extract_append_low b3 b2 0 8 (by omega))).trans (extract_whole b2)
  · exact (((extract_append_high (b3 ++ b2 ++ b1) b0 24 8 (by omega)).trans
      (extract_append_high (b3 ++ b2) b1 16 8 (by omega))).trans
      (extract_append_high b3 b2 8 8 (by omega))).trans (extract_whole b3)

end Sys2Proof
end

