-- ==== Sys2Proof/Laws/State.lean ====
section
/-! SUPPORT. One lemma per field of State per named update, each true by unfolding, so that no later proof unfolds an update. -/

namespace Sys2Proof.Machine

/-! ### Fields after writing bytes to the buffers -/

@[simp] theorem storeBytes_phase (base : Nat) (bs : List Byte) (s : State) : (storeBytes base bs s).phase = s.phase := rfl
@[simp] theorem storeBytes_cmd (base : Nat) (bs : List Byte) (s : State) : (storeBytes base bs s).cmd = s.cmd := rfl
@[simp] theorem storeBytes_done (base : Nat) (bs : List Byte) (s : State) : (storeBytes base bs s).done = s.done := rfl
@[simp] theorem storeBytes_matched (base : Nat) (bs : List Byte) (s : State) : (storeBytes base bs s).matched = s.matched := rfl
@[simp] theorem storeBytes_outbit (base : Nat) (bs : List Byte) (s : State) : (storeBytes base bs s).outbit = s.outbit := rfl
@[simp] theorem storeBytes_seedValid (base : Nat) (bs : List Byte) (s : State) : (storeBytes base bs s).seedValid = s.seedValid := rfl
@[simp] theorem storeBytes_err (base : Nat) (bs : List Byte) (s : State) : (storeBytes base bs s).err = s.err := rfl
@[simp] theorem storeBytes_overrun (base : Nat) (bs : List Byte) (s : State) : (storeBytes base bs s).overrun = s.overrun := rfl
@[simp] theorem storeBytes_lfsr (base : Nat) (bs : List Byte) (s : State) : (storeBytes base bs s).lfsr = s.lfsr := rfl
@[simp] theorem storeBytes_ksbyte (base : Nat) (bs : List Byte) (s : State) : (storeBytes base bs s).ksbyte = s.ksbyte := rfl
@[simp] theorem storeBytes_edcAcc (base : Nat) (bs : List Byte) (s : State) : (storeBytes base bs s).edcAcc = s.edcAcc := rfl
@[simp] theorem storeBytes_seed (base : Nat) (bs : List Byte) (s : State) : (storeBytes base bs s).seed = s.seed := rfl
@[simp] theorem storeBytes_ksLen (base : Nat) (bs : List Byte) (s : State) : (storeBytes base bs s).ksLen = s.ksLen := rfl
@[simp] theorem storeBytes_scanCount (base : Nat) (bs : List Byte) (s : State) : (storeBytes base bs s).scanCount = s.scanCount := rfl
@[simp] theorem storeBytes_irqEn (base : Nat) (bs : List Byte) (s : State) : (storeBytes base bs s).irqEn = s.irqEn := rfl
@[simp] theorem storeBytes_mem (base : Nat) (bs : List Byte) (s : State) : (storeBytes base bs s).mem = s.mem.setBlock base bs := rfl
@[simp] theorem storeBytes_rst (base : Nat) (bs : List Byte) (s : State) : (storeBytes base bs s).rst = s.rst := rfl
@[simp] theorem storeBytes_inputs (base : Nat) (bs : List Byte) (s : State) : (storeBytes base bs s).inputs = s.inputs := rfl
@[simp] theorem storeBytes_reply (base : Nat) (bs : List Byte) (s : State) : (storeBytes base bs s).reply = s.reply := rfl
@[simp] theorem storeBytes_draws (base : Nat) (bs : List Byte) (s : State) : (storeBytes base bs s).draws = s.draws := rfl

/-! ### Fields after the STATUS update that ends a command -/

@[simp] theorem finish_phase (e : Err) (s : State) : (finish e s).phase = .idle := rfl
@[simp] theorem finish_cmd (e : Err) (s : State) : (finish e s).cmd = s.cmd := rfl
@[simp] theorem finish_done (e : Err) (s : State) : (finish e s).done = true := rfl
@[simp] theorem finish_matched (e : Err) (s : State) : (finish e s).matched = s.matched := rfl
@[simp] theorem finish_outbit (e : Err) (s : State) : (finish e s).outbit = s.outbit := rfl
@[simp] theorem finish_seedValid (e : Err) (s : State) : (finish e s).seedValid = s.seedValid := rfl
@[simp] theorem finish_err (e : Err) (s : State) : (finish e s).err = e := rfl
@[simp] theorem finish_overrun (e : Err) (s : State) : (finish e s).overrun = s.overrun := rfl
@[simp] theorem finish_lfsr (e : Err) (s : State) : (finish e s).lfsr = s.lfsr := rfl
@[simp] theorem finish_ksbyte (e : Err) (s : State) : (finish e s).ksbyte = s.ksbyte := rfl
@[simp] theorem finish_edcAcc (e : Err) (s : State) : (finish e s).edcAcc = s.edcAcc := rfl
@[simp] theorem finish_seed (e : Err) (s : State) : (finish e s).seed = s.seed := rfl
@[simp] theorem finish_ksLen (e : Err) (s : State) : (finish e s).ksLen = s.ksLen := rfl
@[simp] theorem finish_scanCount (e : Err) (s : State) : (finish e s).scanCount = s.scanCount := rfl
@[simp] theorem finish_irqEn (e : Err) (s : State) : (finish e s).irqEn = s.irqEn := rfl
@[simp] theorem finish_mem (e : Err) (s : State) : (finish e s).mem = s.mem := rfl
@[simp] theorem finish_rst (e : Err) (s : State) : (finish e s).rst = s.rst := rfl
@[simp] theorem finish_inputs (e : Err) (s : State) : (finish e s).inputs = s.inputs := rfl
@[simp] theorem finish_reply (e : Err) (s : State) : (finish e s).reply = s.reply := rfl
@[simp] theorem finish_draws (e : Err) (s : State) : (finish e s).draws = s.draws + 1 := rfl

/-! ### Fields after a host write to STATUS -/

@[simp] theorem writeStatus_phase (v : Word) (s : State) : (writeStatus v s).phase = s.phase := rfl
@[simp] theorem writeStatus_cmd (v : Word) (s : State) : (writeStatus v s).cmd = s.cmd := rfl
@[simp] theorem writeStatus_done (v : Word) (s : State) : (writeStatus v s).done = (s.done && !v.getLsbD 1) := rfl
@[simp] theorem writeStatus_matched (v : Word) (s : State) : (writeStatus v s).matched = s.matched := rfl
@[simp] theorem writeStatus_outbit (v : Word) (s : State) : (writeStatus v s).outbit = s.outbit := rfl
@[simp] theorem writeStatus_seedValid (v : Word) (s : State) : (writeStatus v s).seedValid = s.seedValid := rfl
@[simp] theorem writeStatus_err (v : Word) (s : State) : (writeStatus v s).err = s.err := rfl
@[simp] theorem writeStatus_overrun (v : Word) (s : State) : (writeStatus v s).overrun = (s.overrun && !v.getLsbD 16) := rfl
@[simp] theorem writeStatus_lfsr (v : Word) (s : State) : (writeStatus v s).lfsr = s.lfsr := rfl
@[simp] theorem writeStatus_ksbyte (v : Word) (s : State) : (writeStatus v s).ksbyte = s.ksbyte := rfl
@[simp] theorem writeStatus_edcAcc (v : Word) (s : State) : (writeStatus v s).edcAcc = s.edcAcc := rfl
@[simp] theorem writeStatus_seed (v : Word) (s : State) : (writeStatus v s).seed = s.seed := rfl
@[simp] theorem writeStatus_ksLen (v : Word) (s : State) : (writeStatus v s).ksLen = s.ksLen := rfl
@[simp] theorem writeStatus_scanCount (v : Word) (s : State) : (writeStatus v s).scanCount = s.scanCount := rfl
@[simp] theorem writeStatus_irqEn (v : Word) (s : State) : (writeStatus v s).irqEn = s.irqEn := rfl
@[simp] theorem writeStatus_mem (v : Word) (s : State) : (writeStatus v s).mem = s.mem := rfl
@[simp] theorem writeStatus_rst (v : Word) (s : State) : (writeStatus v s).rst = s.rst := rfl
@[simp] theorem writeStatus_inputs (v : Word) (s : State) : (writeStatus v s).inputs = s.inputs := rfl
@[simp] theorem writeStatus_reply (v : Word) (s : State) : (writeStatus v s).reply = s.reply := rfl
@[simp] theorem writeStatus_draws (v : Word) (s : State) : (writeStatus v s).draws = s.draws := rfl

/-! ### Fields after a host write to IRQ_EN -/

@[simp] theorem writeIrqEn_phase (v : Word) (s : State) : (writeIrqEn v s).phase = s.phase := rfl
@[simp] theorem writeIrqEn_cmd (v : Word) (s : State) : (writeIrqEn v s).cmd = s.cmd := rfl
@[simp] theorem writeIrqEn_done (v : Word) (s : State) : (writeIrqEn v s).done = s.done := rfl
@[simp] theorem writeIrqEn_matched (v : Word) (s : State) : (writeIrqEn v s).matched = s.matched := rfl
@[simp] theorem writeIrqEn_outbit (v : Word) (s : State) : (writeIrqEn v s).outbit = s.outbit := rfl
@[simp] theorem writeIrqEn_seedValid (v : Word) (s : State) : (writeIrqEn v s).seedValid = s.seedValid := rfl
@[simp] theorem writeIrqEn_err (v : Word) (s : State) : (writeIrqEn v s).err = s.err := rfl
@[simp] theorem writeIrqEn_overrun (v : Word) (s : State) : (writeIrqEn v s).overrun = s.overrun := rfl
@[simp] theorem writeIrqEn_lfsr (v : Word) (s : State) : (writeIrqEn v s).lfsr = s.lfsr := rfl
@[simp] theorem writeIrqEn_ksbyte (v : Word) (s : State) : (writeIrqEn v s).ksbyte = s.ksbyte := rfl
@[simp] theorem writeIrqEn_edcAcc (v : Word) (s : State) : (writeIrqEn v s).edcAcc = s.edcAcc := rfl
@[simp] theorem writeIrqEn_seed (v : Word) (s : State) : (writeIrqEn v s).seed = s.seed := rfl
@[simp] theorem writeIrqEn_ksLen (v : Word) (s : State) : (writeIrqEn v s).ksLen = s.ksLen := rfl
@[simp] theorem writeIrqEn_scanCount (v : Word) (s : State) : (writeIrqEn v s).scanCount = s.scanCount := rfl
@[simp] theorem writeIrqEn_irqEn (v : Word) (s : State) : (writeIrqEn v s).irqEn = v.getLsbD 0 := rfl
@[simp] theorem writeIrqEn_mem (v : Word) (s : State) : (writeIrqEn v s).mem = s.mem := rfl
@[simp] theorem writeIrqEn_rst (v : Word) (s : State) : (writeIrqEn v s).rst = s.rst := rfl
@[simp] theorem writeIrqEn_inputs (v : Word) (s : State) : (writeIrqEn v s).inputs = s.inputs := rfl
@[simp] theorem writeIrqEn_reply (v : Word) (s : State) : (writeIrqEn v s).reply = s.reply := rfl
@[simp] theorem writeIrqEn_draws (v : Word) (s : State) : (writeIrqEn v s).draws = s.draws := rfl

/-! ### Fields after filling KSBUF with a seed's keystream -/

@[simp] theorem fillKeystream_phase (seed : Seed) (s : State) : (fillKeystream seed s).phase = s.phase := rfl
@[simp] theorem fillKeystream_cmd (seed : Seed) (s : State) : (fillKeystream seed s).cmd = s.cmd := rfl
@[simp] theorem fillKeystream_done (seed : Seed) (s : State) : (fillKeystream seed s).done = s.done := rfl
@[simp] theorem fillKeystream_matched (seed : Seed) (s : State) : (fillKeystream seed s).matched = s.matched := rfl
@[simp] theorem fillKeystream_outbit (seed : Seed) (s : State) : (fillKeystream seed s).outbit = s.outbit := rfl
@[simp] theorem fillKeystream_seedValid (seed : Seed) (s : State) : (fillKeystream seed s).seedValid = s.seedValid := rfl
@[simp] theorem fillKeystream_err (seed : Seed) (s : State) : (fillKeystream seed s).err = s.err := rfl
@[simp] theorem fillKeystream_overrun (seed : Seed) (s : State) : (fillKeystream seed s).overrun = s.overrun := rfl
@[simp] theorem fillKeystream_lfsr (seed : Seed) (s : State) : (fillKeystream seed s).lfsr = s.lfsr := rfl
@[simp] theorem fillKeystream_ksbyte (seed : Seed) (s : State) : (fillKeystream seed s).ksbyte = s.ksbyte := rfl
@[simp] theorem fillKeystream_edcAcc (seed : Seed) (s : State) : (fillKeystream seed s).edcAcc = s.edcAcc := rfl
@[simp] theorem fillKeystream_seed (seed : Seed) (s : State) : (fillKeystream seed s).seed = s.seed := rfl
@[simp] theorem fillKeystream_ksLen (seed : Seed) (s : State) : (fillKeystream seed s).ksLen = BitVec.ofNat 12 ksMax := rfl
@[simp] theorem fillKeystream_scanCount (seed : Seed) (s : State) : (fillKeystream seed s).scanCount = s.scanCount := rfl
@[simp] theorem fillKeystream_irqEn (seed : Seed) (s : State) : (fillKeystream seed s).irqEn = s.irqEn := rfl
@[simp] theorem fillKeystream_mem (seed : Seed) (s : State) : (fillKeystream seed s).mem = s.mem.setBlock ksBase (cypher seed ksMax) := rfl
@[simp] theorem fillKeystream_rst (seed : Seed) (s : State) : (fillKeystream seed s).rst = s.rst := rfl
@[simp] theorem fillKeystream_inputs (seed : Seed) (s : State) : (fillKeystream seed s).inputs = s.inputs := rfl
@[simp] theorem fillKeystream_reply (seed : Seed) (s : State) : (fillKeystream seed s).reply = s.reply := rfl
@[simp] theorem fillKeystream_draws (seed : Seed) (s : State) : (fillKeystream seed s).draws = s.draws := rfl

/-! ### Fields after accepting a session seed -/

@[simp] theorem acceptSeed_phase (seed : Seed) (s : State) : (acceptSeed seed s).phase = s.phase := rfl
@[simp] theorem acceptSeed_cmd (seed : Seed) (s : State) : (acceptSeed seed s).cmd = s.cmd := rfl
@[simp] theorem acceptSeed_done (seed : Seed) (s : State) : (acceptSeed seed s).done = s.done := rfl
@[simp] theorem acceptSeed_matched (seed : Seed) (s : State) : (acceptSeed seed s).matched = s.matched := rfl
@[simp] theorem acceptSeed_outbit (seed : Seed) (s : State) : (acceptSeed seed s).outbit = s.outbit := rfl
@[simp] theorem acceptSeed_seedValid (seed : Seed) (s : State) : (acceptSeed seed s).seedValid = true := rfl
@[simp] theorem acceptSeed_err (seed : Seed) (s : State) : (acceptSeed seed s).err = s.err := rfl
@[simp] theorem acceptSeed_overrun (seed : Seed) (s : State) : (acceptSeed seed s).overrun = s.overrun := rfl
@[simp] theorem acceptSeed_lfsr (seed : Seed) (s : State) : (acceptSeed seed s).lfsr = s.lfsr := rfl
@[simp] theorem acceptSeed_ksbyte (seed : Seed) (s : State) : (acceptSeed seed s).ksbyte = s.ksbyte := rfl
@[simp] theorem acceptSeed_edcAcc (seed : Seed) (s : State) : (acceptSeed seed s).edcAcc = s.edcAcc := rfl
@[simp] theorem acceptSeed_seed (seed : Seed) (s : State) : (acceptSeed seed s).seed = seed := rfl
@[simp] theorem acceptSeed_ksLen (seed : Seed) (s : State) : (acceptSeed seed s).ksLen = BitVec.ofNat 12 ksMax := rfl
@[simp] theorem acceptSeed_scanCount (seed : Seed) (s : State) : (acceptSeed seed s).scanCount = s.scanCount := rfl
@[simp] theorem acceptSeed_irqEn (seed : Seed) (s : State) : (acceptSeed seed s).irqEn = s.irqEn := rfl
@[simp] theorem acceptSeed_mem (seed : Seed) (s : State) : (acceptSeed seed s).mem = s.mem.setBlock ksBase (cypher seed ksMax) := rfl
@[simp] theorem acceptSeed_rst (seed : Seed) (s : State) : (acceptSeed seed s).rst = s.rst := rfl
@[simp] theorem acceptSeed_inputs (seed : Seed) (s : State) : (acceptSeed seed s).inputs = s.inputs := rfl
@[simp] theorem acceptSeed_reply (seed : Seed) (s : State) : (acceptSeed seed s).reply = s.reply := rfl
@[simp] theorem acceptSeed_draws (seed : Seed) (s : State) : (acceptSeed seed s).draws = s.draws := rfl

/-! ### Fields after the release of RST -/

@[simp] theorem releaseReset_phase (s : State) : (releaseReset s).phase = .idle := rfl
@[simp] theorem releaseReset_cmd (s : State) : (releaseReset s).cmd = 0 := rfl
@[simp] theorem releaseReset_done (s : State) : (releaseReset s).done = false := rfl
@[simp] theorem releaseReset_matched (s : State) : (releaseReset s).matched = false := rfl
@[simp] theorem releaseReset_outbit (s : State) : (releaseReset s).outbit = false := rfl
@[simp] theorem releaseReset_seedValid (s : State) : (releaseReset s).seedValid = false := rfl
@[simp] theorem releaseReset_err (s : State) : (releaseReset s).err = .ok := rfl
@[simp] theorem releaseReset_overrun (s : State) : (releaseReset s).overrun = false := rfl
@[simp] theorem releaseReset_lfsr (s : State) : (releaseReset s).lfsr = 0 := rfl
@[simp] theorem releaseReset_ksbyte (s : State) : (releaseReset s).ksbyte = 0 := rfl
@[simp] theorem releaseReset_edcAcc (s : State) : (releaseReset s).edcAcc = Config.edc.init := rfl
@[simp] theorem releaseReset_seed (s : State) : (releaseReset s).seed = 0 := rfl
@[simp] theorem releaseReset_ksLen (s : State) : (releaseReset s).ksLen = 0 := rfl
@[simp] theorem releaseReset_scanCount (s : State) : (releaseReset s).scanCount = 0 := rfl
@[simp] theorem releaseReset_irqEn (s : State) : (releaseReset s).irqEn = false := rfl
@[simp] theorem releaseReset_mem (s : State) : (releaseReset s).mem = [] := rfl
@[simp] theorem releaseReset_rst (s : State) : (releaseReset s).rst = false := rfl
@[simp] theorem releaseReset_inputs (s : State) : (releaseReset s).inputs = s.inputs := rfl
@[simp] theorem releaseReset_reply (s : State) : (releaseReset s).reply = .none := rfl
@[simp] theorem releaseReset_draws (s : State) : (releaseReset s).draws = s.draws + 1 := rfl

/-! ### Issue, by phase -/

theorem phase_cases (s : State) : s.phase = .idle ∨ ∃ c, s.phase = .busy c := by
  cases h : s.phase with
  | idle => exact .inl rfl
  | busy c => exact .inr ⟨c, rfl⟩

theorem issue_idle (c : Word) (s : State) (h : s.phase = .idle) :
    issue c s = { s with phase := .busy c, cmd := c, done := false } := by
  unfold issue; rw [h]

theorem issue_busy (c w : Word) (s : State) (h : s.phase = .busy w) : issue c s = { s with overrun := true } := by
  unfold issue; rw [h]

theorem isBusy_idle (s : State) (h : s.phase = .idle) : isBusy s = false := by
  unfold isBusy; rw [h]

theorem isBusy_busy (c : Word) (s : State) (h : s.phase = .busy c) : isBusy s = true := by
  unfold isBusy; rw [h]

end Sys2Proof.Machine
end

