-- ==== Sys2Proof/Laws/Memory.lean ====
section
/-! SUPPORT. The laws of the buffers' storage: a read after a write, other places untouched, and that every write keeps the canonical
form. -/

namespace Sys2Proof.Machine

/-! ### Reading -/

theorem get_append (m₁ m₂ : Memory) (a : Nat) : Memory.get (m₁ ++ m₂) a = (m₁.get a).or (m₂.get a) := by
  induction m₁ with
  | nil => simp [Memory.get]
  | cons c m ih =>
    obtain ⟨k, b⟩ := c
    by_cases h : k = a <;> simp [Memory.get, h, ih]

/-- Filtering by address keeps or drops the reading of each address as a whole. -/
theorem get_filter (m : Memory) (f : Nat → Bool) (a : Nat) :
    Memory.get (m.filter (fun c => f c.1)) a = if f a then m.get a else none := by
  induction m with
  | nil => simp [Memory.get]
  | cons c m ih =>
    obtain ⟨k, b⟩ := c
    by_cases hk : k = a
    · subst hk
      by_cases hf : f k = true
      · simp [hf, Memory.get]
      · have := ih
        simp only [hf, Bool.false_eq_true, if_false] at this
        simp [hf, this]
    · by_cases hf : f k = true <;> simp [hf, Memory.get, hk, ih]

theorem get_cellsFrom (bs : List Byte) (base a : Nat) :
    Memory.get (cellsFrom base bs) a = if base ≤ a then bs[a - base]? else none := by
  induction bs generalizing base with
  | nil => simp [cellsFrom, Memory.get]
  | cons b bs ih =>
    simp only [cellsFrom, Memory.get, ih]
    by_cases h : base = a
    · simp [h]
    · by_cases hle : base + 1 ≤ a
      · have e : a - base = (a - (base + 1)) + 1 := by omega
        have hb : base ≤ a := by omega
        simp [h, hle, hb, e]
      · have hb : ¬ base ≤ a := by omega
        simp [h, hle, hb]

/-- A read after a write of a run of bytes: the byte written inside the run, the old reading outside it. -/
theorem get_setBlock (m : Memory) (base : Nat) (bs : List Byte) (a : Nat) :
    (m.setBlock base bs).get a = if base ≤ a ∧ a < base + bs.length then bs[a - base]? else m.get a := by
  unfold Memory.setBlock
  rw [get_append, get_append, get_cellsFrom, get_filter m (fun k => decide (k < base)),
    get_filter m (fun k => decide (base + bs.length ≤ k))]
  simp only [decide_eq_true_eq]
  by_cases h1 : a < base
  · have : ¬ base ≤ a := by omega
    have h3 : ¬ base + bs.length ≤ a := by omega
    simp [h1, this, h3]
  · have hb : base ≤ a := by omega
    by_cases h2 : a < base + bs.length
    · have h3 : ¬ base + bs.length ≤ a := by omega
      have hl : a - base < bs.length := by omega
      simp [h1, hb, h2, h3, hl]
    · have h3 : base + bs.length ≤ a := by omega
      have hl : bs.length ≤ a - base := by omega
      simp [h1, hb, h2, h3, hl]

theorem get_setBlock_of_mem (m : Memory) (base : Nat) (bs : List Byte) (i : Nat) (h : i < bs.length) :
    (m.setBlock base bs).get (base + i) = some bs[i] := by
  rw [get_setBlock]
  simp [h]

theorem get_setBlock_of_not_mem (m : Memory) (base : Nat) (bs : List Byte) (a : Nat)
    (h : ¬ (base ≤ a ∧ a < base + bs.length)) : (m.setBlock base bs).get a = m.get a := by
  rw [get_setBlock, if_neg h]

/-! ### The canonical form -/

theorem allAbove_iff (m : Memory) (lo : Nat) : allAbove lo m = true ↔ ∀ c ∈ m, lo < c.1 := by
  induction m with
  | nil => simp [allAbove]
  | cons c m ih =>
    obtain ⟨k, b⟩ := c
    simp [allAbove, ih]

/-- The canonical form is that the addresses strictly rise. -/
theorem wf_iff (m : Memory) : m.wf = true ↔ m.Pairwise (fun x y => x.1 < y.1) := by
  induction m with
  | nil => simp [Memory.wf]
  | cons c m ih =>
    obtain ⟨k, b⟩ := c
    simp [Memory.wf, allAbove_iff, ih]

theorem mem_cellsFrom (bs : List Byte) (base : Nat) (c : Host.Cell) (h : c ∈ cellsFrom base bs) :
    base ≤ c.1 ∧ c.1 < base + bs.length := by
  induction bs generalizing base with
  | nil => simp [cellsFrom] at h
  | cons b bs ih =>
    rcases List.mem_cons.mp h with rfl | h
    · simp
    · have := ih _ h
      simp only [List.length_cons]
      omega

theorem pairwise_cellsFrom (bs : List Byte) (base : Nat) : (cellsFrom base bs).Pairwise (fun x y => x.1 < y.1) := by
  induction bs generalizing base with
  | nil => simp [cellsFrom]
  | cons b bs ih =>
    refine List.pairwise_cons.mpr ⟨fun c hc => ?_, ih _⟩
    have := (mem_cellsFrom _ _ _ hc).1
    simp only
    omega

/-- Every write keeps the canonical form. -/
theorem wf_setBlock (m : Memory) (base : Nat) (bs : List Byte) (h : m.wf = true) : (m.setBlock base bs).wf = true := by
  rw [wf_iff] at h ⊢
  unfold Memory.setBlock
  refine List.pairwise_append.mpr ⟨List.pairwise_append.mpr ⟨h.filter _, pairwise_cellsFrom _ _, ?_⟩, h.filter _, ?_⟩
  · intro x hx y hy
    have h1 := (List.mem_filter.mp hx).2
    have h2 := mem_cellsFrom _ _ _ hy
    simp only [decide_eq_true_eq] at h1
    omega
  · intro x hx y hy
    have h2 := (List.mem_filter.mp hy).2
    simp only [decide_eq_true_eq] at h2
    rcases List.mem_append.mp hx with hx | hx
    · have h1 := (List.mem_filter.mp hx).2
      simp only [decide_eq_true_eq] at h1
      omega
    · have h1 := mem_cellsFrom _ _ _ hx
      omega

/-- The memory right after reset is in the canonical form. -/
theorem wf_reset : State.reset.mem.wf = true := rfl

/-! ### Buffer bytes -/

@[simp] theorem length_bytesAt (s : State) (base n : Nat) : (bytesAt s base n).length = n := by simp [bytesAt]

theorem getElem?_bytesAt (s : State) (base n i : Nat) (h : i < n) : (bytesAt s base n)[i]? = some (byteAt s (base + i)) := by
  simp [bytesAt, h]

/-- A byte that has been written reads as it was written. -/
theorem byteAt_of_get (s : State) (a : Nat) (b : Byte) (h : s.mem.get a = some b) : byteAt s a = b := by
  simp [byteAt, h]

/-- Two states with the same memory and the same number of draws read the same bytes. -/
theorem bytesAt_congr (s t : State) (base n : Nat) (hm : s.mem = t.mem) (hd : s.draws = t.draws) :
    bytesAt s base n = bytesAt t base n := by
  simp [bytesAt, byteAt, hm, hd]

end Sys2Proof.Machine
end

