-- ==== Sys2Proof/Laws/Exec.lean ====
section
/-! SUPPORT. What a completion step can do, said once: every command is one completion step of its own rule, and each rule that
chooses between outcomes has one lemma per outcome. -/

namespace Sys2Proof.Machine

/-! ### The completion step -/

theorem complete_legal (body : State → State × Err) (s : State) :
    complete true body s = .next (finish (body s).2 (body s).1) := rfl

theorem complete_illegal (body : State → State × Err) (s : State) :
    complete false body s = .next (finish .invalidArgument s) := rfl

/-- A completion step is always a next state, and it is one of these two. -/
theorem complete_cases (legal : Bool) (body : State → State × Err) (s : State) :
    (legal = true ∧ complete legal body s = .next (finish (body s).2 (body s).1)) ∨
    (legal = false ∧ complete legal body s = .next (finish .invalidArgument s)) := by
  cases legal
  · exact .inr ⟨rfl, rfl⟩
  · exact .inl ⟨rfl, rfl⟩

/-! ### Legality of each format -/

theorem formatNLegal_iff (mbz : BitVec 28) : formatNLegal mbz = true ↔ mbz = 0 := by simp [formatNLegal]

theorem formatSLegal_iff (mbz : BitVec 12) (seed15 : BitVec 1) :
    formatSLegal mbz seed15 = true ↔ mbz = 0 ∧ seed15 = 0 := by simp [formatSLegal]

theorem formatGLegal_iff (len : BitVec 12) (seed15 : BitVec 1) :
    formatGLegal len seed15 = true ↔ len.toNat ≤ 2048 ∧ seed15 = 0 := by simp [formatGLegal, ksMax]

theorem formatBLegal_iff (mbz : BitVec 20) : formatBLegal mbz = true ↔ mbz = 0 := by simp [formatBLegal]

/-! ### The outcomes of the rules that choose -/

theorem decodeBody_short (p : EdcParams) (s : State) (h : s.ksLen.toNat ≠ 2048) :
    decodeBody p s = (s, .invalidArgument) := by
  unfold decodeBody; rw [if_neg h]

theorem decodeBody_match (p : EdcParams) (s : State) (h : s.ksLen.toNat = 2048)
    (hm : decodeMatches p (secbuf s) (ksbuf s) = true) :
    decodeBody p s =
      ({ storeBytes outBase (candidate (secbuf s) (ksbuf s) ++ slice (secbuf s) edcSpan secLen) s with
          edcAcc := decodeAcc p (secbuf s) (ksbuf s)
          matched := true }, .ok) := by
  simp [decodeBody, h, decodeFn, hm]

theorem decodeBody_mismatch (p : EdcParams) (s : State) (h : s.ksLen.toNat = 2048)
    (hm : decodeMatches p (secbuf s) (ksbuf s) = false) :
    decodeBody p s = ({ s with edcAcc := decodeAcc p (secbuf s) (ksbuf s), matched := false }, .badChecksum) := by
  simp [decodeBody, h, decodeFn, hm]

theorem searchBody_inSession (p : EdcParams) (s : State) (h : s.seedValid = true) :
    searchBody p s = (s, .invalidArgument) := by simp [searchBody, h]

theorem searchBody_found (p : EdcParams) (s : State) (seed : Seed) (h : s.seedValid = false)
    (hf : searchFn p (secbuf s) = some seed) :
    searchBody p s = ({ acceptSeed seed s with matched := true, scanCount := seed.setWidth 16 + 1 }, .ok) := by
  simp [searchBody, h, hf]

theorem searchBody_notFound (p : EdcParams) (s : State) (h : s.seedValid = false) (hf : searchFn p (secbuf s) = none) :
    searchBody p s = ({ s with matched := false, scanCount := 0x8000 }, .seedNotFound) := by
  simp [searchBody, h, hf]

theorem setSeedBody_inSession (seed : Seed) (s : State) (h : s.seedValid = true) :
    setSeedBody seed s = (s, .invalidArgument) := by simp [setSeedBody, h]

theorem setSeedBody_accepts (seed : Seed) (s : State) (h : s.seedValid = false) :
    setSeedBody seed s = (acceptSeed seed s, .ok) := by simp [setSeedBody, h]

/-! ### Every command at once -/

/-- A command's own rule, its fields being legal. -/
def bodyOf : Instr → State → State × Err
  | .nop _ => fun t => (t, .ok)
  | .lfsrLoad _ _ seed => lfsrLoadBody seed
  | .lfsrStep _ => lfsrStepBody
  | .lfsrByte _ => lfsrByteBody
  | .genKs len _ seed => genKsBody len seed
  | .edcClear _ => edcClearBody Config.edc
  | .edcByte _ byte => edcByteBody Config.edc byte
  | .edcSector _ => edcSectorBody Config.edc
  | .decodeSector _ => decodeBody Config.edc
  | .search _ => searchBody Config.edc
  | .setSeed _ _ seed => setSeedBody seed
  | .clearSession _ => clearSessionBody
  | .reserved _ => fun t => (t, .illegalCommand)

/-- Every command is the completion step of its rule; a reserved word's rule is to be illegal. -/
theorem exec_eq_complete (i : Instr) (s : State) : exec i s = complete (i.wf || i.isReserved) (bodyOf i) s := by
  cases i <;> simp [exec, Instr.wf, Instr.isReserved, bodyOf, execNop, execLfsrLoad, execLfsrStep, execLfsrByte, execGenKs,
    execEdcClear, execEdcByte, execEdcSector, execDecode, execSearch, execSetSeed, execClearSession, execReserved]

/-- What no rule touches: the phase, CMD, OVERRUN, IRQ_EN, RST and the model's own fields. -/
structure SameOutside (s t : State) : Prop where
  phase : t.phase = s.phase
  cmd : t.cmd = s.cmd
  done : t.done = s.done
  err : t.err = s.err
  overrun : t.overrun = s.overrun
  irqEn : t.irqEn = s.irqEn
  rst : t.rst = s.rst
  inputs : t.inputs = s.inputs
  reply : t.reply = s.reply
  draws : t.draws = s.draws

theorem SameOutside.refl (s : State) : SameOutside s s := ⟨rfl, rfl, rfl, rfl, rfl, rfl, rfl, rfl, rfl, rfl⟩

theorem decodeBody_same (p : EdcParams) (s : State) : SameOutside s (decodeBody p s).1 := by
  by_cases h : s.ksLen.toNat = 2048
  · cases hm : decodeMatches p (secbuf s) (ksbuf s)
    · rw [decodeBody_mismatch p s h hm]; exact ⟨rfl, rfl, rfl, rfl, rfl, rfl, rfl, rfl, rfl, rfl⟩
    · rw [decodeBody_match p s h hm]; exact ⟨rfl, rfl, rfl, rfl, rfl, rfl, rfl, rfl, rfl, rfl⟩
  · rw [decodeBody_short p s h]; exact SameOutside.refl s

theorem searchBody_same (p : EdcParams) (s : State) : SameOutside s (searchBody p s).1 := by
  cases h : s.seedValid
  · cases hf : searchFn p (secbuf s) with
    | none => rw [searchBody_notFound p s h hf]; exact ⟨rfl, rfl, rfl, rfl, rfl, rfl, rfl, rfl, rfl, rfl⟩
    | some seed => rw [searchBody_found p s seed h hf]; exact ⟨rfl, rfl, rfl, rfl, rfl, rfl, rfl, rfl, rfl, rfl⟩
  · rw [searchBody_inSession p s h]; exact SameOutside.refl s

theorem setSeedBody_same (seed : Seed) (s : State) : SameOutside s (setSeedBody seed s).1 := by
  cases h : s.seedValid
  · rw [setSeedBody_accepts seed s h]; exact ⟨rfl, rfl, rfl, rfl, rfl, rfl, rfl, rfl, rfl, rfl⟩
  · rw [setSeedBody_inSession seed s h]; exact SameOutside.refl s

theorem bodyOf_same (i : Instr) (s : State) : SameOutside s (bodyOf i s).1 := by
  cases i <;> unfold bodyOf
  case decodeSector mbz => exact decodeBody_same Config.edc s
  case search mbz => exact searchBody_same Config.edc s
  case setSeed mbz seed15 seed => exact setSeedBody_same seed s
  all_goals
    constructor <;> simp only [lfsrLoadBody, lfsrStepBody, lfsrByteBody, genKsBody, edcClearBody, edcByteBody, edcSectorBody,
      clearSessionBody, storeBytes]

/-- The one state a command completes in. -/
def completedState (i : Instr) (s : State) : State :=
  if i.wf || i.isReserved then finish (bodyOf i s).2 (bodyOf i s).1 else finish .invalidArgument s

theorem exec_eq_next (i : Instr) (s : State) : exec i s = .next (completedState i s) := exec_eq_complete i s

end Sys2Proof.Machine
end

