-- ==== Sys2Proof/Laws/Flags.lean ====
section
/-! SUPPORT. The fields of the STATUS word, one lemma each (10_state.md R26). -/

namespace Sys2Proof.Machine

variable (busy done matched outbit seedValid overrun : Bool) (err : BitVec 3)

/-- Bits 4 to 0 of STATUS. -/
theorem packStatus_low :
    (packStatus busy done matched outbit seedValid err overrun).getLsbD 0 = busy ∧
    (packStatus busy done matched outbit seedValid err overrun).getLsbD 1 = done ∧
    (packStatus busy done matched outbit seedValid err overrun).getLsbD 2 = matched ∧
    (packStatus busy done matched outbit seedValid err overrun).getLsbD 3 = outbit ∧
    (packStatus busy done matched outbit seedValid err overrun).getLsbD 4 = seedValid := by
  have one : ∀ b : Bool, (BitVec.ofBool b).getLsbD 0 = b := by decide
  unfold packStatus
  refine ⟨?_, ?_, ?_, ?_, ?_⟩ <;>
    simp only [BitVec.getLsbD_append, Nat.reduceLT, if_true, if_false, Nat.reduceSub, one]

/-- OVERRUN, bit 16 of STATUS. -/
theorem packStatus_overrun : (packStatus busy done matched outbit seedValid err overrun).getLsbD 16 = overrun := by
  have one : ∀ b : Bool, (BitVec.ofBool b).getLsbD 0 = b := by decide
  unfold packStatus
  simp only [BitVec.getLsbD_append, Nat.reduceLT, if_true, if_false, Nat.reduceSub, one]

/-- ERR, bits 10 to 8 of STATUS. -/
theorem packStatus_err : (packStatus busy done matched outbit seedValid err overrun).extractLsb' 8 3 = err := by
  unfold packStatus
  exact (((((((extract_append_high _ (BitVec.ofBool busy) 8 3 (by omega)).trans
    (extract_append_high _ (BitVec.ofBool done) 7 3 (by omega))).trans
    (extract_append_high _ (BitVec.ofBool matched) 6 3 (by omega))).trans
    (extract_append_high _ (BitVec.ofBool outbit) 5 3 (by omega))).trans
    (extract_append_high _ (BitVec.ofBool seedValid) 4 3 (by omega))).trans
    (extract_append_high _ 0#3 3 3 (by omega))).trans
    (extract_append_low _ err 0 3 (by omega))).trans (extract_whole err)

end Sys2Proof.Machine
end

