-- ==== Sys2Proof/Laws/Step.lean ====
section
/-! SUPPORT. What one step can do, said once: which access is a bus error, the engine's turn, each event, and the step. -/

namespace Sys2Proof.Machine

/-! ### The window -/

theorem region_sec (a : Nat) (h1 : 0x1000 ≤ a) (h2 : a < 0x1810) : region a = .buf .sec := by
  unfold region; rw [if_neg (by omega), if_pos ⟨h1, h2⟩]

theorem region_ks (a : Nat) (h1 : 0x2000 ≤ a) (h2 : a < 0x2800) : region a = .buf .ks := by
  unfold region; rw [if_neg (by omega), if_neg (by omega), if_pos ⟨h1, h2⟩]

theorem region_out (a : Nat) (h1 : 0x3000 ≤ a) (h2 : a < 0x3810) : region a = .buf .out := by
  unfold region; rw [if_neg (by omega), if_neg (by omega), if_neg (by omega), if_pos ⟨h1, h2⟩]

/-- Where the window map puts an offset (20_memory.md R51). -/
theorem region_cases (a : Nat) :
    (region a = .regs ∧ a < 0x28) ∨ (region a = .buf .sec ∧ 0x1000 ≤ a ∧ a < 0x1810) ∨
    (region a = .buf .ks ∧ 0x2000 ≤ a ∧ a < 0x2800) ∨ (region a = .buf .out ∧ 0x3000 ≤ a ∧ a < 0x3810) ∨
    region a = .unmapped := by
  unfold region
  split
  · exact .inl ⟨rfl, by assumption⟩
  · split
    · exact .inr (.inl ⟨rfl, by assumption⟩)
    · split
      · exact .inr (.inr (.inl ⟨rfl, by assumption⟩))
      · split
        · exact .inr (.inr (.inr (.inl ⟨rfl, by assumption⟩)))
        · exact .inr (.inr (.inr (.inr rfl)))

/-- What a legal access reaches, with the offset it was resolved from (20_memory.md R54). -/
theorem resolve_ok (n : Nat) (off : Offset) (t : Target) (h : resolve n off = .ok t) :
    (∃ r, t = .reg r ∧ n = 4 ∧ regAt off.toNat = some r) ∨
    (∃ b, t = .byte b off.toNat ∧ n = 1 ∧ region off.toNat = .buf b) ∨
    (∃ b, t = .word b off.toNat ∧ n = 4 ∧ off.toNat % 4 = 0 ∧ region off.toNat = .buf b) := by
  unfold resolve at h
  split at h
  · cases h
  · split at h
    · split at h
      · rename_i r hr
        cases h
        exact .inl ⟨r, rfl, by assumption, hr⟩
      · cases h
    · cases h
  · rename_i b hb
    split at h
    · cases h
      exact .inr (.inl ⟨b, rfl, by assumption, hb⟩)
    · split at h
      · split at h
        · cases h
          exact .inr (.inr ⟨b, rfl, by assumption, by assumption, hb⟩)
        · cases h
      · cases h

/-- A 32-bit access to a register's offset reaches that register (10_state.md R24). -/
theorem resolve_reg (off : Offset) (r : Reg) (h : regAt off.toNat = some r) : resolve 4 off = .ok (.reg r) := by
  have hlt : off.toNat < 0x28 := by
    unfold regAt at h
    split at h <;> first | omega | cases h
  have hr : region off.toNat = .regs := by unfold region; rw [if_pos hlt]
  unfold resolve
  rw [hr]
  simp [h]

/-- An 8-bit access inside a buffer's region reaches that byte (20_memory.md R54). -/
theorem resolve_byte (off : Offset) (b : Buf) (h : region off.toNat = .buf b) : resolve 1 off = .ok (.byte b off.toNat) := by
  unfold resolve
  rw [h]
  rfl

/-- An aligned 32-bit access inside a buffer's region reaches four bytes (20_memory.md R54). -/
theorem resolve_word (off : Offset) (b : Buf) (h : region off.toNat = .buf b) (h4 : off.toNat % 4 = 0) :
    resolve 4 off = .ok (.word b off.toNat) := by
  unfold resolve
  rw [h]
  simp [h4]

/-! ### Host accesses -/

/-- A host read changes nothing but the answer and the number of draws (20_memory.md R59). -/
theorem hostRead_next (n : Nat) (off : Offset) (s t : State) (h : hostRead n off s = .next t) :
    ∃ g, resolve n off = .ok g ∧ t = { s with reply := .data (readTarget g s), draws := s.draws + 1 } := by
  unfold hostRead at h
  split at h
  · cases h
  · rename_i g hg
    cases h
    exact ⟨g, hg, rfl⟩

theorem hostWrite_next (n : Nat) (off : Offset) (v : Word) (s t : State) (h : hostWrite n off v s = .next t) :
    ∃ g, resolve n off = .ok g ∧ t = { writeTarget g v s with reply := .accepted } := by
  unfold hostWrite at h
  split at h
  · cases h
  · rename_i g hg
    cases h
    exact ⟨g, hg, rfl⟩

/-- The offset of a register (10_state.md R24). -/
theorem regAt_eq (a : Nat) (r : Reg) (h : regAt a = some r) :
    a = (match r with
      | .cmd => 0x000 | .status => 0x004 | .lfsr => 0x008 | .ksbyte => 0x00C | .edcAcc => 0x010 | .edcOut => 0x014
      | .seed => 0x018 | .ksLen => 0x01C | .scanCount => 0x020 | .irqEn => 0x024) := by
  unfold regAt at h
  split at h <;> cases h <;> rfl

/-- A SECBUF write stores its bytes while IDLE and is dropped with OVERRUN while BUSY (20_memory.md R56, R63). -/
theorem writeSecbuf_cases (a : Nat) (bs : List Byte) (s : State) :
    (s.phase = .idle ∧ writeSecbuf a bs s = storeBytes a bs s) ∨
    ((∃ c, s.phase = .busy c) ∧ writeSecbuf a bs s = { s with overrun := true }) := by
  rcases phase_cases s with hp | ⟨c, hp⟩
  · exact .inl ⟨hp, by unfold writeSecbuf; rw [hp]⟩
  · exact .inr ⟨⟨c, hp⟩, by unfold writeSecbuf; rw [hp]⟩

/-- Everything a legal write can do, by its offset (20_memory.md R56, R63; 60_exceptions.md R214): issue a command, clear STATUS bits,
set IRQ_EN, store SECBUF bytes while IDLE, be dropped with OVERRUN while BUSY, or nothing. -/
theorem writeTarget_cases (n : Nat) (off : Offset) (g : Target) (v : Word) (s : State) (h : resolve n off = .ok g) :
    (n = 4 ∧ off = 0x000 ∧ s.phase = .idle ∧ writeTarget g v s = { s with phase := .busy v, cmd := v, done := false }) ∨
    (n = 4 ∧ off = 0x004 ∧ writeTarget g v s = writeStatus v s) ∨ (n = 4 ∧ off = 0x024 ∧ writeTarget g v s = writeIrqEn v s) ∨
    (s.phase = .idle ∧ ∃ bs, writeTarget g v s = storeBytes off.toNat bs s ∧ bs.length = n ∧
      0x1000 ≤ off.toNat ∧ off.toNat + n ≤ 0x1810) ∨
    ((∃ c, s.phase = .busy c) ∧ (off = 0x000 ∨ (0x1000 ≤ off.toNat ∧ off.toNat < 0x1810)) ∧
      writeTarget g v s = { s with overrun := true }) ∨
    writeTarget g v s = s := by
  rcases resolve_ok n off g h with ⟨r, rfl, rfl, hr⟩ | ⟨b, rfl, rfl, hb⟩ | ⟨b, rfl, rfl, h4, hb⟩
  · have ho := regAt_eq off.toNat r hr
    cases r with
    | cmd =>
      have h0 : off = 0x000 := BitVec.eq_of_toNat_eq ho
      rcases phase_cases s with hp | ⟨c, hp⟩
      · exact .inl ⟨rfl, h0, hp, issue_idle v s hp⟩
      · exact .inr (.inr (.inr (.inr (.inl ⟨⟨c, hp⟩, .inl h0, issue_busy v c s hp⟩))))
    | status => exact .inr (.inl ⟨rfl, BitVec.eq_of_toNat_eq ho, rfl⟩)
    | irqEn => exact .inr (.inr (.inl ⟨rfl, BitVec.eq_of_toNat_eq ho, rfl⟩))
    | _ => exact .inr (.inr (.inr (.inr (.inr rfl))))
  · cases b with
    | sec =>
      rcases region_cases off.toNat with ⟨e, _⟩ | ⟨e, h1, h2⟩ | ⟨e, _⟩ | ⟨e, _⟩ | e <;> rw [hb] at e <;> cases e
      rcases writeSecbuf_cases off.toNat [v.setWidth 8] s with ⟨hp, e⟩ | ⟨hp, e⟩
      · exact .inr (.inr (.inr (.inl ⟨hp, _, e, rfl, h1, by omega⟩)))
      · exact .inr (.inr (.inr (.inr (.inl ⟨hp, .inr ⟨h1, h2⟩, e⟩))))
    | _ => exact .inr (.inr (.inr (.inr (.inr rfl))))
  · cases b with
    | sec =>
      rcases region_cases off.toNat with ⟨e, _⟩ | ⟨e, h1, h2⟩ | ⟨e, _⟩ | ⟨e, _⟩ | e <;> rw [hb] at e <;> cases e
      rcases writeSecbuf_cases off.toNat (le32Bytes v) s with ⟨hp, e⟩ | ⟨hp, e⟩
      · exact .inr (.inr (.inr (.inl ⟨hp, _, e, rfl, h1, by omega⟩)))
      · exact .inr (.inr (.inr (.inr (.inl ⟨hp, .inr ⟨h1, h2⟩, e⟩))))
    | _ => exact .inr (.inr (.inr (.inr (.inr rfl))))

/-! ### The engine's turn and the step -/

/-- The engine's turn never stops: it waits, or completes the latched command (60_exceptions.md R213). -/
theorem engineTurn_cases (s : State) :
    engineTurn s = .next s ∨ (s.rst = false ∧ ∃ c, s.phase = .busy c ∧ engineTurn s = .next (completedState (decode c) s)) := by
  unfold engineTurn
  split
  · exact .inl rfl
  · rename_i hr
    cases hp : s.phase with
    | idle => exact .inl rfl
    | busy c => exact .inr ⟨by simpa using hr, c, rfl, exec_eq_next _ _⟩

theorem engineTurn_busy (s : State) (c : Word) (hr : s.rst = false) (hp : s.phase = .busy c) :
    engineTurn s = exec (decode c) s := by
  unfold engineTurn; rw [hr, hp]; rfl

/-- Everything a step that gives a next state can do, by the event it takes from the list (s₀ is s without that event). -/
theorem step_events (s t : State) (h : step s = .next t) :
    (∃ s₀, ((s.inputs = [] ∧ s₀ = s) ∨ ∃ rest, s.inputs = .engine :: rest ∧ s₀ = { s with inputs := rest }) ∧
      (t = s₀ ∨ (s.rst = false ∧ ∃ c, s.phase = .busy c ∧ t = completedState (decode c) s₀))) ∨
    ∃ rest s₀, s₀ = { s with inputs := rest } ∧
      ((∃ n off, s.inputs = .read n off :: rest ∧
          ((s.rst = true ∧ t = { s₀ with reply := .unserved }) ∨
           (s.rst = false ∧ ∃ g, resolve n off = .ok g ∧ t = { s₀ with reply := .data (readTarget g s₀), draws := s₀.draws + 1 }))) ∨
       (∃ n off v, s.inputs = .write n off v :: rest ∧
          ((s.rst = true ∧ t = { s₀ with reply := .unserved }) ∨
           (s.rst = false ∧ ∃ g, resolve n off = .ok g ∧ t = { writeTarget g v s₀ with reply := .accepted }))) ∨
       (s.inputs = .rst true :: rest ∧ t = { s₀ with rst := true }) ∨
       (s.inputs = .rst false :: rest ∧ ((s.rst = true ∧ t = releaseReset s₀) ∨ (s.rst = false ∧ t = s₀)))) := by
  unfold step nextEvent at h
  split at h
  · rename_i hi
    refine .inl ⟨s, .inl ⟨hi, rfl⟩, ?_⟩
    rcases engineTurn_cases s with e | ⟨hr, c, hp, e⟩ <;> rw [e] at h <;> cases h
    · exact .inl rfl
    · exact .inr ⟨hr, c, hp, rfl⟩
  · rename_i e rest hi
    cases e with
    | read n off =>
      refine .inr ⟨rest, _, rfl, .inl ⟨n, off, hi, ?_⟩⟩
      simp only [perform] at h
      split at h
      · cases h; exact .inl ⟨by assumption, rfl⟩
      · rename_i hr
        obtain ⟨g, hg, rfl⟩ := hostRead_next n off _ t h
        exact .inr ⟨by simpa using hr, g, hg, rfl⟩
    | write n off v =>
      refine .inr ⟨rest, _, rfl, .inr (.inl ⟨n, off, v, hi, ?_⟩)⟩
      simp only [perform] at h
      split at h
      · cases h; exact .inl ⟨by assumption, rfl⟩
      · rename_i hr
        obtain ⟨g, hg, rfl⟩ := hostWrite_next n off v _ t h
        exact .inr ⟨by simpa using hr, g, hg, rfl⟩
    | engine =>
      refine .inl ⟨_, .inr ⟨rest, hi, rfl⟩, ?_⟩
      simp only [perform] at h
      rcases engineTurn_cases { s with inputs := rest } with e | ⟨hr, c, hp, e⟩ <;> rw [e] at h <;> cases h
      · exact .inl rfl
      · exact .inr ⟨hr, c, hp, rfl⟩
    | rst level =>
      refine .inr ⟨rest, _, rfl, .inr (.inr ?_)⟩
      cases level with
      | true => simp only [perform] at h; cases h; exact .inl ⟨hi, rfl⟩
      | false =>
        simp only [perform] at h
        split at h
        · cases h; exact .inr ⟨hi, .inl ⟨by assumption, rfl⟩⟩
        · rename_i hr
          cases h; exact .inr ⟨hi, .inr ⟨by simpa using hr, rfl⟩⟩

/-- The same without the events: nothing; complete the latched command; answer a read; make a write; leave an access unserved under
RST; raise RST; release it. -/
theorem step_cases (s t : State) (h : step s = .next t) : ∃ s₀, (s₀ = s ∨ ∃ rest, s₀ = { s with inputs := rest }) ∧
    (t = s₀ ∨
     (s₀.rst = false ∧ ∃ c, s₀.phase = .busy c ∧ t = completedState (decode c) s₀) ∨
     (s₀.rst = false ∧ ∃ g, t = { s₀ with reply := .data (readTarget g s₀), draws := s₀.draws + 1 }) ∨
     (s₀.rst = false ∧ ∃ n off v g, resolve n off = .ok g ∧ t = { writeTarget g v s₀ with reply := .accepted }) ∨
     (s₀.rst = true ∧ t = { s₀ with reply := .unserved }) ∨
     t = { s₀ with rst := true } ∨
     (s₀.rst = true ∧ t = releaseReset s₀)) := by
  rcases step_events s t h with ⟨s₀, hs, he⟩ | ⟨rest, s₀, rfl, he⟩
  · refine ⟨s₀, hs.imp And.right fun ⟨rest, _, e⟩ => ⟨rest, e⟩, ?_⟩
    have hsame : s₀.rst = s.rst ∧ s₀.phase = s.phase := by rcases hs with ⟨-, rfl⟩ | ⟨_, -, rfl⟩ <;> exact ⟨rfl, rfl⟩
    rw [← hsame.1, ← hsame.2] at he
    exact he.imp_right .inl
  · refine ⟨_, .inr ⟨rest, rfl⟩, ?_⟩
    rcases he with ⟨n, off, -, ⟨hr, e⟩ | ⟨hr, g, -, e⟩⟩ | ⟨n, off, v, -, ⟨hr, e⟩ | ⟨hr, g, hg, e⟩⟩ | ⟨-, e⟩ | ⟨-, ⟨hr, e⟩ | ⟨-, e⟩⟩
    · exact .inr (.inr (.inr (.inr (.inl ⟨hr, e⟩))))
    · exact .inr (.inr (.inl ⟨hr, g, e⟩))
    · exact .inr (.inr (.inr (.inr (.inl ⟨hr, e⟩))))
    · exact .inr (.inr (.inr (.inl ⟨hr, n, off, v, g, hg, e⟩)))
    · exact .inr (.inr (.inr (.inr (.inr (.inl e)))))
    · exact .inr (.inr (.inr (.inr (.inr (.inr ⟨hr, e⟩)))))
    · exact .inl e

end Sys2Proof.Machine
end

