-- ==== Sys2Proof/Tests/Slice0.lean ====
section
/-! SUPPORT. The model's own tests: small, one step each, with the expected results from spec/95_test_vectors.md and the encodings of
spec/30_encoding.md. -/

namespace Sys2Proof.Tests

open Sys2Proof.Machine

/-! ### Well-formedness: one ill-formed term for each check (30_encoding.md R89) -/

theorem test_wf_formatN : (Instr.nop 1).wf = false ∧ (Instr.nop 0).wf = true := by decide
theorem test_wf_formatS_mbz : (Instr.lfsrLoad 1 0 0).wf = false ∧ (Instr.lfsrLoad 0 0 0x7FFF).wf = true := by decide
theorem test_wf_formatS_seed15 : (Instr.setSeed 0 1 0).wf = false := by decide
theorem test_wf_formatG_len : (Instr.genKs 2049 0 0).wf = false ∧ (Instr.genKs 2048 0 0).wf = true := by decide
theorem test_wf_formatG_seed15 : (Instr.genKs 0 1 0).wf = false := by decide
theorem test_wf_formatB : (Instr.edcByte 1 0).wf = false ∧ (Instr.edcByte 0 0xFF).wf = true := by decide
theorem test_wf_reserved : (Instr.reserved 0).wf = false := by decide

/-! ### Decoding: each command's word, written out bit by bit from the templates of 30_encoding.md R87 -/

theorem test_decode_nop : decode 0b00000000000000000000000000000000 = .nop 0 := by decide
theorem test_decode_lfsrLoad : decode 0b00010000000000000101101001011010 = .lfsrLoad 0 0 0x5A5A := by decide
theorem test_decode_lfsrStep : decode 0b00100000000000000000000000000000 = .lfsrStep 0 := by decide
theorem test_decode_lfsrByte : decode 0b00110000000000000000000000000000 = .lfsrByte 0 := by decide
theorem test_decode_genKs : decode 0b01000000000010000000000000000001 = .genKs 8 0 1 := by decide
theorem test_decode_edcClear : decode 0b01010000000000000000000000000000 = .edcClear 0 := by decide
theorem test_decode_edcByte : decode 0b01100000000000000000000010100101 = .edcByte 0 0xA5 := by decide
theorem test_decode_edcSector : decode 0b01110000000000000000000000000000 = .edcSector 0 := by decide
theorem test_decode_decodeSector : decode 0b10000000000000000000000000000000 = .decodeSector 0 := by decide
theorem test_decode_search : decode 0b10010000000000000000000000000000 = .search 0 := by decide
theorem test_decode_setSeed : decode 0b10100000000000000000000100100011 = .setSeed 0 0 0x123 := by decide
theorem test_decode_clearSession : decode 0b10110000000000000000000000000000 = .clearSession 0 := by decide
theorem test_decode_reserved : decode 0xC0000000 = .reserved 0 ∧ decode 0xD0000000 = .reserved 0x10000000 := by decide

/-- Vectors C2, C3, C9, G4, X2: words whose legality fails, and why (30_encoding.md R93). -/
theorem test_decodeLegal_rejects :
    decodeLegal 0x10008000 = .error .invalid ∧ decodeLegal 0x10010000 = .error .invalid ∧
    decodeLegal 0x20000001 = .error .invalid ∧ decodeLegal 0x48010000 = .error .invalid ∧
    decodeLegal 0xFFFFFFFF = .error .illegal := ⟨rfl, rfl, rfl, rfl, rfl⟩

/-- The words of the vectors C1, G1, E3 and S8 (95_test_vectors.md). -/
theorem test_encode_words :
    encode (.lfsrLoad 0 0 0x7FFF) = 0x10007FFF ∧ encode (.genKs 8 0 1) = 0x40080001 ∧ encode (.edcByte 0 2) = 0x60000002 ∧
    encode (.setSeed 0 0 0x123) = 0xA0000123 := by decide +kernel

theorem test_decodeTableWord : decodeTableWord 32 0x48007FFF = some (.genKs 2048 0 0x7FFF) ∧ decodeTableWord 33 0 = none := by
  decide

/-! ### The generator (table L-step, L-byte, L-cypher) -/

theorem test_lfsrStep_table :
    lfsrStep 0x0001 = (false, 0x0002) ∧ lfsrStep 0x2000 = (false, 0x4000) ∧ lfsrStep 0x7BFF = (true, 0x77FF) ∧
    lfsrStep 0x7FFF = (true, 0x7FFE) := by decide
theorem test_byteStep_table : byteStep 0x0080 = (0x01, 0x0011) ∧ byteStep 0x7FFF = (0xFF, 0x7F00) := by decide
theorem test_cypher_7FFF : cypher 0x7FFF 8 = [0xFF, 0xFE, 0x00, 0x3C, 0x07, 0xF8, 0xF0, 0xEF] := by decide +kernel
theorem test_cypherState_1234 : cypherState 0x1234 8 = 0x0D0F := by decide +kernel
/-- Table L-long: the last four bytes and the final state of a 2048-byte keystream. -/
theorem test_cypher_long : (cypher (cypherState 0x0123 2044) 4) = [0x05, 0x2A, 0xAF, 0x00] := by decide +kernel
theorem test_cypherState_long : cypherState 0x0001 2048 = 0x5500 := by decide +kernel

/-! ### The checksum, under CAND and under two published CRCs (tables E-step, E-fold) -/

/-- CAND (41_edc.md "Candidate instance"), not normative. -/
def cand : EdcParams := ⟨0x80000011, 0, false, false, 0⟩

/-- ASCII "123456789". -/
def digits : List Byte := [0x31, 0x32, 0x33, 0x34, 0x35, 0x36, 0x37, 0x38, 0x39]

theorem test_edcStep_table :
    edcStep cand 0 0xFF = 0x00000A0A ∧ edcStep cand 0x80000000 0 = 0x80000F0F ∧ edcStep cand 0x80000011 2 = 0x00001E3C := by decide
theorem test_edc_cand : edc cand [0x01, 0x02, 0x03, 0x04] = 0x9E3C2277 := by decide +kernel
theorem test_edc_header : edc cand [0, 1, 2, 3, 4, 5, 6, 7, 8, 9, 10, 11] = 0xBCC52A30 := by decide +kernel
theorem test_edc_isoHdlc : edc ⟨0x04C11DB7, 0xFFFFFFFF, true, true, 0xFFFFFFFF⟩ digits = 0xCBF43926 := by decide +kernel
theorem test_edc_bzip2 : edc ⟨0x04C11DB7, 0xFFFFFFFF, false, false, 0xFFFFFFFF⟩ digits = 0xFC891918 := by decide +kernel

/-- Vector E8: the trailer is read big-endian (20_memory.md R53). -/
theorem test_be32 : be32 [0x80, 0x55, 0x15, 0x3F] = 0x8055153F ∧ be32Bytes 0x3F155580 = [0x3F, 0x15, 0x55, 0x80] := by decide

/-! ### Commands -/

/-- The fields of the state a command completes in, through a reading function. -/
def after {α : Type} (i : Instr) (s : State) (f : State → α) : Option α :=
  match exec i s with
  | .next t => some (f t)
  | .fault _ => none
  | .refused _ => none

/-- A state whose LFSR holds r and whose OUTBIT is b. -/
def withLfsr (r : Seed) (b : Bool) : State := { State.reset with lfsr := r, outbit := b }

/-- Vectors C4 and C5. -/
theorem test_lfsrStep_command :
    after (.lfsrStep 0) (withLfsr 0x0400 true) (fun t => (t.outbit, t.lfsr)) = some (false, 0x0801) ∧
    after (.lfsrStep 0) (withLfsr 0x4000 false) (fun t => (t.outbit, t.lfsr)) = some (true, 0x0001) := by decide
/-- Vector C7: OUTBIT stays. -/
theorem test_lfsrByte_command :
    after (.lfsrByte 0) (withLfsr 0x4400 true) (fun t => (t.ksbyte, t.lfsr, t.outbit)) = some (0x88, 0x0008, true) := by decide
/-- Vectors C2 and C9: rejected words change nothing. -/
theorem test_lfsr_rejected :
    after (decode 0x10008000) (withLfsr 0x1234 false) (fun t => (t.err, t.lfsr)) = some (.invalidArgument, 0x1234) ∧
    after (decode 0x20000001) (withLfsr 1 true) (fun t => (t.err, t.lfsr, t.outbit)) = some (.invalidArgument, 1, true) := by decide
/-- Vector G1: the bytes, KS_LEN and LFSR. -/
theorem test_genKs_command :
    after (.genKs 8 0 1) (withLfsr 0x7777 false) (fun t => (bytesAt t 0x2000 8, t.mem.get 0x2008, t.ksLen, t.lfsr)) =
      some ([0x00, 0x02, 0x00, 0x44, 0x08, 0x09, 0x11, 0x30], none, 8, 0x0230) := by rfl
/-- Vector G2: length 0 writes nothing. -/
theorem test_genKs_zero :
    after (.genKs 0 0 0x123) { State.reset with ksLen := 2048 } (fun t => (t.mem, t.ksLen, t.lfsr, t.err)) =
      some ([], 0, 0x123, .ok) := by decide
/-- Vector E2 under CAND, at the level of the command's rule. -/
theorem test_edcByte_rule : (edcByteBody cand 1 { State.reset with edcAcc := 0 }).1.edcAcc = 0x80000011 := by rfl
/-- Vector E4. -/
theorem test_edcByte_rejected :
    after (decode 0x60000100) { State.reset with edcAcc := 0x80000011 } (fun t => (t.err, t.edcAcc)) =
      some (.invalidArgument, 0x80000011) := by decide
/-- Vector E1 for any EDC: EDC_ACC becomes EDC_INIT. -/
theorem test_edcClear_command :
    after (.edcClear 0) { State.reset with edcAcc := 0x12345678 } (fun t => t.edcAcc) = some Config.edc.init := by rfl
/-- Vector E6's other half: a mismatch or a match, EDC_SECTOR completes OK. -/
theorem test_edcSector_ok : after (.edcSector 0) State.reset (fun t => (t.err, t.done)) = some (.ok, true) := by rfl
/-- Vector D5: KS_LEN = 8. -/
theorem test_decode_shortKeystream :
    after (.decodeSector 0) { State.reset with ksLen := 8, matched := true } (fun t => (t.err, t.matched, t.mem)) =
      some (.invalidArgument, true, []) := by decide
/-- Vector S7: SEARCH inside a session. -/
theorem test_search_inSession :
    after (.search 0) { State.reset with seedValid := true, seed := 1, scanCount := 2 } (fun t => (t.err, t.seed, t.scanCount)) =
      some (.invalidArgument, 1, 2) := by decide
/-- Vector S8. -/
theorem test_setSeed_command :
    after (.setSeed 0 0 0x123) State.reset (fun t => (t.seed, t.seedValid, t.ksLen, bytesAt t 0x2000 3)) =
      some (0x123, true, 2048, [0x02, 0x46, 0x4C]) := by rfl
/-- Vector S9. -/
theorem test_setSeed_inSession :
    after (.setSeed 0 0 1) { State.reset with seedValid := true, seed := 0x123 } (fun t => (t.err, t.seed)) =
      some (.invalidArgument, 0x123) := by decide
/-- Vector S11. -/
theorem test_clearSession_command :
    after (.clearSession 0) { State.reset with seedValid := true, seed := 1, scanCount := 2, ksLen := 2048 }
      (fun t => (t.seed, t.seedValid, t.scanCount, t.ksLen)) = some (0, false, 0, 2048) := by decide
/-- Vectors S12, S13, X2: NOP, a malformed NOP, a reserved word. -/
theorem test_nop_command : after (.nop 0) State.reset (fun t => (t.err, t.done)) = some (.ok, true) := by decide
theorem test_nop_rejected : after (decode 1) State.reset (fun t => t.err) = some .invalidArgument := by decide
theorem test_reserved_command : after (decode 0xFFFFFFFF) State.reset (fun t => t.err) = some .illegalCommand := by decide

/-! ### The bus and the step -/

/-- What one step makes of a state with one event waiting. -/
def stepOn {α : Type} (e : Event) (s : State) (f : State → α) : Except Fault (Option α) :=
  match step { s with inputs := [e] } with
  | .next t => .ok (some (f t))
  | .fault r => .error r
  | .refused _ => .ok none

/-- A state with SEARCH running. -/
def searching : State := { State.reset with phase := .busy 0x90000000, cmd := 0x90000000 }

/-- Vectors X9, X10, X11. -/
theorem test_bus_errors :
    stepOn (.read 1 0x004) State.reset (fun _ => ()) = .error (.busError .width) ∧
    stepOn (.read 4 0x1002) State.reset (fun _ => ()) = .error (.busError .misaligned) ∧
    stepOn (.read 4 0x0028) State.reset (fun _ => ()) = .error (.busError .unmapped) ∧
    stepOn (.read 1 0x1810) State.reset (fun _ => ()) = .error (.busError .unmapped) ∧
    stepOn (.write 2 0x1000 0) State.reset (fun _ => ()) = .error (.busError .width) := ⟨rfl, rfl, rfl, rfl, rfl⟩
/-- Vectors X6 and X7: dropped with OVERRUN. -/
theorem test_dropped_writes :
    stepOn (.write 4 0x000 0) searching (fun t => (t.overrun, t.cmd, t.phase)) = .ok (some (true, 0x90000000, .busy 0x90000000)) ∧
    stepOn (.write 1 0x1000 5) searching (fun t => (t.overrun, t.mem)) = .ok (some (true, [])) := ⟨rfl, rfl⟩
/-- Vector X8 and `CLRDONE`. -/
theorem test_status_w1c :
    stepOn (.write 4 0x004 0x00010000) { State.reset with overrun := true, done := true } (fun t => (t.overrun, t.done)) =
      .ok (some (false, true)) ∧
    stepOn (.write 4 0x004 0x00000002) { State.reset with overrun := true, done := true } (fun t => (t.overrun, t.done)) =
      .ok (some (true, false)) := ⟨rfl, rfl⟩
/-- Vectors X12 and X13: ignored. -/
theorem test_ignored_writes :
    stepOn (.write 4 0x2000 0x12345678) State.reset (fun t => (t.mem, t.reply)) = .ok (some ([], .accepted)) ∧
    stepOn (.write 4 0x008 0x1234) State.reset (fun t => t.lfsr) = .ok (some 0) := ⟨rfl, rfl⟩
/-- The host word of H at 0x1000 (95_test_vectors.md): little-endian lanes, both ways. -/
theorem test_secbuf_word :
    stepOn (.write 4 0x1000 0x03020100) State.reset (fun t => t.mem) = .ok (some [(0x1000, 0), (0x1001, 1), (0x1002, 2), (0x1003, 3)]) ∧
    stepOn (.read 4 0x1000) { State.reset with mem := [(0x1000, 0), (0x1001, 1), (0x1002, 2), (0x1003, 3)] } (fun t => t.reply) =
      .ok (some (.data 0x03020100)) := ⟨rfl, rfl⟩
/-- Program P1's STATUS after LFSR_STEP and P5's after a failed SEARCH. -/
theorem test_status_word :
    readReg .status { State.reset with done := true, outbit := true } = 0x0000000A ∧
    readReg .status { State.reset with done := true, err := .seedNotFound } = 0x00000202 := by decide
/-- While SEARCH runs, BUSY reads 1, DONE 0, and SEED draws of its width; CMD reads its value (20_memory.md R62). -/
theorem test_busy_reads :
    (readReg .status searching).getLsbD 0 = true ∧ (readReg .status searching).getLsbD 1 = false ∧
    readReg .cmd searching = 0x90000000 ∧ readReg .seed searching = ((Config.draw 0).setWidth 15).setWidth 32 := by
  exact ⟨(packStatus_low _ _ _ _ _ _ _).1, (packStatus_low _ _ _ _ _ _ _).2.1, rfl, rfl⟩
/-- Vector X5: IRQ after a completion with IRQ_EN = 1. -/
theorem test_irq : after (.reserved 0) { State.reset with irqEn := true } irqLine = some true := by decide
/-- Reset: a running command is abandoned, the buffers are unwritten again (70_reset_and_hazards.md R240). -/
theorem test_reset_release :
    stepOn (.rst false) { searching with rst := true, mem := [(0x1000, 1)], lfsr := 3 } (fun t => (t.phase, t.mem, t.lfsr, t.cmd)) =
      .ok (some (.idle, [], 0, 0)) := rfl
/-- The step runs the placed command first, and waits when nothing is placed. -/
theorem test_withFetchWord :
    step (State.reset.withFetchWord 32 0x10007FFF) = exec (.lfsrLoad 0 0 0x7FFF) (issue 0x10007FFF State.reset) ∧
    step State.reset = .next State.reset := ⟨rfl, rfl⟩
/-- Program P7 with NOP for SEARCH: the second CMD write is dropped or issued, as the interleaving has it (60_exceptions.md R219). -/
theorem test_race :
    stepOn (.write 4 0x000 0x50000000) (issue 0 State.reset) (fun t => (t.overrun, t.cmd)) = .ok (some (true, 0)) ∧
    stepOn (.write 4 0x000 0x50000000) State.reset (fun t => (t.overrun, t.cmd)) = .ok (some (false, 0x50000000)) := ⟨rfl, rfl⟩

/-! ### Host statements -/

/-- The assembler's refusals (30_encoding.md R91), and the events of `RUN` and `CLROVR` (R92). -/
theorem test_assembler :
    assemble (.lfsrLoad 0x8000) = none ∧ assemble (.genKs 1 2049) = none ∧ assemble (.genSectorKs 0x7FFF) = some 0x48007FFF ∧
    expand (.run (.lfsrLoad 0x7FFF) 1) =
      some [.write 4 0 0x10007FFF, .read 4 4, .engine, .read 4 4] ∧ expand .clrOvr = some [.write 4 4 0x10000] := by decide

end Sys2Proof.Tests
end

