-- ==== Sys2Proof/Tests/Witnesses.lean ====
section
/-! SUPPORT. For every statement with hypotheses, concrete states and operands that meet all of them together, clause by clause. -/

namespace Sys2Proof.Tests

open Sys2Proof.Machine Sys2Proof.Claims

/-! ### States -/

/-- The reset state with a phase and some events waiting. -/
def waiting (p : Phase) (es : List Event) : State := { State.reset with phase := p, inputs := es }

/-- The reset state with RST asserted and some events waiting. -/
def underReset (es : List Event) : State := { State.reset with rst := true, inputs := es }

/-- A state inside a session. -/
def inSession : State := { State.reset with seedValid := true, seed := 5 }

/-- A state whose SECBUF has only its trailing bytes written, with the value v. -/
def trailed (v : Word) (k : BitVec 12) : State := { State.reset with ksLen := k, mem := cellsFrom 0x180C (be32Bytes v) }

theorem get_trailed (v : Word) (k : BitVec 12) (a : Nat) (h : a < 0x180C ∨ 0x1810 ≤ a) : (trailed v k).mem.get a = none := by
  show Memory.get (cellsFrom 0x180C (be32Bytes v)) a = none
  rw [get_cellsFrom]
  split
  · rw [List.getElem?_eq_none]
    simp only [be32Bytes, List.length_cons, List.length_nil]
    omega
  · rfl

theorem byteAt_trailed (v : Word) (k : BitVec 12) (a : Nat) (h : a < 0x180C ∨ 0x1810 ≤ a) :
    byteAt (trailed v k) a = Config.unwrittenByte 0 a := by
  unfold byteAt
  rw [get_trailed v k a h]
  rfl

theorem headerBytes_trailed (v : Word) (k : BitVec 12) : headerBytes (trailed v k) = headerBytes (trailed 0 0) := by
  unfold headerBytes
  refine List.map_congr_left fun i hi => ?_
  have := List.mem_range.mp hi
  rw [byteAt_trailed _ _ _ (by omega), byteAt_trailed _ _ _ (by omega)]

theorem plainBytes_trailed (v : Word) (k : BitVec 12) : plainBytes (trailed v k) = plainBytes (trailed 0 0) := by
  unfold plainBytes
  refine List.map_congr_left fun i hi => ?_
  have := List.mem_range.mp hi
  rw [byteAt_trailed _ _ _ (by omega), byteAt_trailed _ _ _ (by omega), byteAt_trailed _ _ _ (by omega),
    byteAt_trailed _ _ _ (by omega)]

theorem trialBytes_trailed (v : Word) (k : BitVec 12) (seed : Seed) :
    trialBytes (trailed v k) seed = trialBytes (trailed 0 0) seed := by
  unfold trialBytes
  refine List.map_congr_left fun i hi => ?_
  have := List.mem_range.mp hi
  rw [byteAt_trailed _ _ _ (by omega), byteAt_trailed _ _ _ (by omega)]

theorem bytes_of_word (v : Word) :
    ((v.extractLsb' 24 8).setWidth 32 <<< 24) ||| ((v.extractLsb' 16 8).setWidth 32 <<< 16) |||
      ((v.extractLsb' 8 8).setWidth 32 <<< 8) ||| (v.extractLsb' 0 8).setWidth 32 = v := by
  apply BitVec.eq_of_getLsbD_eq
  intro k hk
  have cases4 : k < 8 ∨ (8 ≤ k ∧ k < 16) ∨ (16 ≤ k ∧ k < 24) ∨ (24 ≤ k ∧ k < 32) := by omega
  simp only [BitVec.getLsbD_or, BitVec.getLsbD_shiftLeft, BitVec.getLsbD_setWidth, BitVec.getLsbD_extractLsb', hk, decide_true,
    Bool.true_and, Nat.zero_add]
  rcases cases4 with h | ⟨h, h'⟩ | ⟨h, h'⟩ | ⟨h, h'⟩
  · simp [show k < 24 by omega, show k < 16 by omega, h]
  · simp [show k < 24 by omega, show k < 16 by omega, show ¬ k < 8 by omega, show k - 8 < 32 by omega, show k - 8 < 8 by omega,
      show 8 + (k - 8) = k by omega]
  · simp [show k < 24 by omega, show ¬ k < 16 by omega, show ¬ k < 8 by omega, show k - 16 < 32 by omega,
      show ¬ k - 8 < 8 by omega, show k - 16 < 8 by omega, show 16 + (k - 16) = k by omega]
  · simp [show ¬ k < 24 by omega, show ¬ k < 16 by omega, show ¬ k < 8 by omega, show k - 24 < 32 by omega,
      show ¬ k - 8 < 8 by omega, show ¬ k - 16 < 8 by omega, show k - 24 < 8 by omega, show 24 + (k - 24) = k by omega]

theorem trailerValue_trailed (v : Word) (k : BitVec 12) : trailerValue (trailed v k) = v := bytes_of_word v

/-- The checksum of the candidate DECODE forms in these states, and of the seed's trial. -/
def plainSum : Word := edc Config.edc (headerBytes (trailed 0 0) ++ plainBytes (trailed 0 0))
def trialSum (k : Seed) : Word := edc Config.edc (headerBytes (trailed 0 0) ++ trialBytes (trailed 0 0) k)

theorem plain_trailed (v : Word) (k : BitVec 12) :
    edc Config.edc (headerBytes (trailed v k) ++ plainBytes (trailed v k)) = plainSum := by
  rw [headerBytes_trailed, plainBytes_trailed, plainSum]

theorem passes_trailed (v : Word) (k : BitVec 12) (seed : Seed) : passes (trailed v k) seed ↔ trialSum seed = v := by
  unfold passes
  rw [headerBytes_trailed, trialBytes_trailed, trailerValue_trailed, trialSum]

/-- Some trailing checksum is that of no seed: there are more words than seeds. -/
theorem exists_unmatched : ∃ v : Word, ∀ k : Seed, trialSum k ≠ v := by
  have h := Finset.exists_mem_notMem_of_card_lt_card
    (s := (Finset.range 32768).image (fun n => (trialSum (BitVec.ofNat 15 n)).toNat)) (t := Finset.range 32769)
    (Nat.lt_of_le_of_lt Finset.card_image_le (by simp))
  obtain ⟨n, hn, hm⟩ := h
  have hlt := Finset.mem_range.mp hn
  refine ⟨BitVec.ofNat 32 n, fun k hk => hm (Finset.mem_image.mpr ⟨k.toNat, Finset.mem_range.mpr k.isLt, ?_⟩)⟩
  rw [BitVec.ofNat_toNat, BitVec.setWidth_eq, hk, BitVec.toNat_ofNat]
  omega

/-! ### Encoding -/

theorem witness_DecodeProcedureByWordBits :
    0xC ≤ opOf 0xC0000000 ∧ 0xC ≤ opOf 0xFFFFFFFF ∧
    badFields 0x00000001 ∧ badFields 0xA0008000 ∧ badFields 0x10010000 ∧ badFields 0x48010000 ∧ badFields 0x60000100 ∧
    (opOf 0x48007FFF < 0xC ∧ ¬ badFields 0x48007FFF) ∧ (opOf 0xB0000000 < 0xC ∧ ¬ badFields 0xB0000000) := by
  refine ⟨?_, ?_, ?_, ?_, ?_, ?_, ?_, ⟨?_, ?_⟩, ⟨?_, ?_⟩⟩ <;> (simp only [badFields, opOf]; decide)

/-! ### Commands -/

theorem witness_malformed :
    (1 : BitVec 28) ≠ 0 ∧ (0 : BitVec 12) = 0 ∧ ((1 : BitVec 12) ≠ 0 ∨ (0 : BitVec 1) ≠ 0) ∧
    ((0 : BitVec 12) ≠ 0 ∨ (1 : BitVec 1) ≠ 0) ∧ (1 : BitVec 20) ≠ 0 := by decide

theorem witness_GenKsCommand :
    (0 : BitVec 12).toNat ≤ 2048 ∧ (2048 : BitVec 12).toNat ≤ 2048 ∧ 2048 < (2049 : BitVec 12).toNat ∧
    (2048 < (0 : BitVec 12).toNat ∨ (1 : BitVec 1) ≠ 0) := by decide

theorem witness_GenKs_then_Decode : (5 : BitVec 12).toNat < 2048 ∧ ∃ t, exec (.genKs 5 0 1) State.reset = .next t :=
  ⟨by decide, _, rfl⟩

theorem witness_EdcClear_twice : ∃ t u, exec (.edcClear 0) inSession = .next t ∧ exec (.edcClear 0) t = .next u :=
  ⟨_, _, rfl, rfl⟩

/-- A state with an all-zero SECBUF. -/
def zeroSector : State := { State.reset with mem := cellsFrom 0x1000 (zeros 2064) }

theorem witness_EdcSectorCommand : ∀ a, 0x1000 ≤ a → a < 0x1810 → byteAt zeroSector a = 0 := by
  intro a h1 h2
  unfold byteAt
  have e : zeroSector.mem.get a = some 0 := by
    show Memory.get (cellsFrom 0x1000 (zeros 2064)) a = some 0
    rw [get_cellsFrom, if_pos h1, zeros, List.getElem?_replicate, if_pos (by omega)]
  rw [e]
  rfl

theorem witness_DecodeCommand_match :
    (trailed plainSum 2048).ksLen = 2048 ∧
    edc Config.edc (headerBytes (trailed plainSum 2048) ++ plainBytes (trailed plainSum 2048)) =
      trailerValue (trailed plainSum 2048) := by
  refine ⟨rfl, ?_⟩
  rw [plain_trailed, trailerValue_trailed]

theorem witness_DecodeCommand_mismatch :
    (trailed (plainSum + 1) 2048).ksLen = 2048 ∧
    edc Config.edc (headerBytes (trailed (plainSum + 1) 2048) ++ plainBytes (trailed (plainSum + 1) 2048)) ≠
      trailerValue (trailed (plainSum + 1) 2048) := by
  refine ⟨rfl, ?_⟩
  rw [plain_trailed, trailerValue_trailed]
  intro h
  simp at h

theorem witness_DecodeCommand_short : State.reset.ksLen ≠ 2048 ∧ (1 : BitVec 28) ≠ 0 := by decide

theorem witness_SearchCommand_found :
    (trailed (trialSum 0) 0).seedValid = false ∧ passes (trailed (trialSum 0) 0) 0 ∧
    ∀ j : Seed, j.toNat < (0 : Seed).toNat → ¬ passes (trailed (trialSum 0) 0) j :=
  ⟨rfl, (passes_trailed _ _ _).mpr rfl, fun _ h => absurd h (Nat.not_lt_zero _)⟩

theorem witness_SearchCommand_notFound : ∃ s : State, s.seedValid = false ∧ ∀ k : Seed, ¬ passes s k := by
  obtain ⟨v, hv⟩ := exists_unmatched
  exact ⟨trailed v 0, rfl, fun k h => hv k ((passes_trailed v 0 k).mp h)⟩

theorem witness_SearchCommand_inSession : inSession.seedValid = true := rfl

theorem witness_SetSeedCommand : State.reset.seedValid = false ∧ inSession.seedValid = true := ⟨rfl, rfl⟩

/-- The bytes of these states as SECBUF, KSBUF and their slices, for the outcomes of the rules. -/
theorem slice_bytesAt (s : State) (base n a b : Nat) (hb : b ≤ n) :
    slice (bytesAt s base n) a b = (List.range (b - a)).map (fun i => byteAt s (base + a + i)) := by
  apply List.ext_getElem
  · simp [slice]; omega
  · intro i h1 h2
    simp [slice, bytesAt, Nat.add_assoc]

theorem xorBytes_map (n : Nat) (f g : Nat → Byte) :
    xorBytes ((List.range n).map f) ((List.range n).map g) = (List.range n).map (fun i => f i ^^^ g i) := by
  unfold xorBytes
  apply List.ext_getElem
  · simp
  · intro i h1 h2
    simp

theorem trailing_secbuf (s : State) : trailing (secbuf s) = trailerValue s := by
  unfold trailing secbuf
  rw [slice_bytesAt s secBase secLen edcSpan secLen (by decide), show (List.range (secLen - edcSpan)) = [0, 1, 2, 3] from rfl]
  simp [be32, trailerValue, BitVec.shiftLeft_or_distrib, ← BitVec.shiftLeft_add]
  rfl

theorem candidate_secbuf (s : State) (ks : List Byte) (g : Nat → Byte) (h : ks = (List.range 2048).map g) :
    candidate (secbuf s) ks = headerBytes s ++ (List.range 2048).map (fun i => byteAt s (0x100C + i) ^^^ g i) := by
  unfold candidate secbuf
  rw [slice_bytesAt s secBase secLen 0 hdrLen (by decide),
    slice_bytesAt s secBase secLen hdrLen edcSpan (by decide), h,
    show edcSpan - hdrLen = 2048 from rfl, xorBytes_map]
  rfl

theorem decodeMatches_plain (s : State) :
    decodeMatches Config.edc (secbuf s) (ksbuf s) = true ↔ edc Config.edc (headerBytes s ++ plainBytes s) = trailerValue s := by
  unfold decodeMatches decodeAcc
  rw [candidate_secbuf s (ksbuf s) (fun i => byteAt s (ksBase + i)) rfl, trailing_secbuf]
  simp only [beq_iff_eq]
  rfl

theorem length_cypher (seed : Seed) (n : Nat) : (cypher seed n).length = n := by
  induction n generalizing seed with
  | zero => rfl
  | succ n ih => simp [cypher, ih]

theorem trial_passes (s : State) (k : Seed) : trial Config.edc (secbuf s) k = true ↔ passes s k := by
  have hc : cypher k 2048 = (List.range 2048).map (fun i => (cypher k 2048).getD i 0) := by
    apply List.ext_getElem
    · simp [length_cypher]
    · intro i h1 h2
      simp [h1]
  have e : trial Config.edc (secbuf s) k = decodeMatches Config.edc (secbuf s) (cypher k 2048) := by
    unfold trial decodeFn
    cases decodeMatches Config.edc (secbuf s) (cypher k 2048) <;> rfl
  rw [e]
  unfold decodeMatches decodeAcc passes
  rw [candidate_secbuf s (cypher k 2048) (fun i => (cypher k 2048).getD i 0) hc, trailing_secbuf]
  simp only [beq_iff_eq]
  rfl

theorem completedState_err (i : Instr) (s : State) (h : (i.wf || i.isReserved) = true) :
    (completedState i s).err = (bodyOf i s).2 := by
  unfold completedState
  rw [if_pos h, finish_err]

/-- A completion that finds a seed, one that finds none, a mismatching and a matching DECODE, for the statements about outcomes. -/
theorem witness_outcome_found :
    ∃ t, (trailed (trialSum 0) 0).seedValid = false ∧ exec (.search 0) (trailed (trialSum 0) 0) = .next t ∧ t.err = .ok := by
  have hp := (trial_passes (trailed (trialSum 0) 0) 0).mpr ((passes_trailed _ _ _).mpr rfl)
  cases hf : searchFn Config.edc (secbuf (trailed (trialSum 0) 0)) with
  | none =>
    unfold searchFn at hf
    rw [Option.map_eq_none_iff, List.find?_eq_none] at hf
    exact absurd hp (hf 0 (by simp))
  | some k =>
    refine ⟨completedState (.search 0) (trailed (trialSum 0) 0), rfl, exec_eq_next _ _, ?_⟩
    have hb : bodyOf (.search 0) (trailed (trialSum 0) 0) = _ := searchBody_found Config.edc (trailed (trialSum 0) 0) k rfl hf
    rw [completedState_err _ _ (by decide), hb]

theorem witness_outcome_notFound : ∃ s t, exec (.search 0) s = .next t ∧ t.err = .seedNotFound := by
  obtain ⟨s, hv, hs⟩ := witness_SearchCommand_notFound
  have hf : searchFn Config.edc (secbuf s) = none := by
    unfold searchFn
    rw [Option.map_eq_none_iff, List.find?_eq_none]
    exact fun n _ h => hs (BitVec.ofNat 15 n) ((trial_passes s _).mp h)
  refine ⟨s, completedState (.search 0) s, exec_eq_next _ _, ?_⟩
  have hb : bodyOf (.search 0) s = _ := searchBody_notFound Config.edc s hv hf
  rw [completedState_err _ _ (by decide), hb]

theorem bodyOf_decode (mbz : BitVec 28) : bodyOf (.decodeSector mbz) = decodeBody Config.edc := rfl

theorem witness_outcome_match : ∃ t, exec (.decodeSector 0) (trailed plainSum 2048) = .next t ∧ t.err = .ok := by
  have hm := (decodeMatches_plain (trailed plainSum 2048)).mpr witness_DecodeCommand_match.2
  refine ⟨completedState (.decodeSector 0) _, exec_eq_next _ _, ?_⟩
  rw [completedState_err _ _ (by decide), bodyOf_decode, decodeBody_match Config.edc _ rfl hm]

theorem witness_outcome_mismatch :
    ∃ t, exec (.decodeSector 0) (trailed (plainSum + 1) 2048) = .next t ∧ t.err = .badChecksum := by
  have hm : decodeMatches Config.edc (secbuf (trailed (plainSum + 1) 2048)) (ksbuf (trailed (plainSum + 1) 2048)) = false := by
    rw [Bool.eq_false_iff]
    exact fun h => witness_DecodeCommand_mismatch.2 ((decodeMatches_plain _).mp h)
  refine ⟨completedState (.decodeSector 0) _, exec_eq_next _ _, ?_⟩
  rw [completedState_err _ _ (by decide), bodyOf_decode, decodeBody_mismatch Config.edc _ rfl hm]

theorem witness_outcome_rejected :
    (∃ t, exec (.reserved 0) State.reset = .next t ∧ t.err = .illegalCommand) ∧
    (∃ t, exec (.nop 1) State.reset = .next t ∧ t.err = .invalidArgument) ∧
    (∃ t, exec (.decodeSector 0) State.reset = .next t ∧ t.err = .invalidArgument) ∧
    (∃ t, exec (.search 0) inSession = .next t ∧ t.err = .invalidArgument) ∧
    (∃ t, exec (.setSeed 0 0 1) inSession = .next t ∧ t.err = .invalidArgument) :=
  ⟨⟨_, rfl, rfl⟩, ⟨_, rfl, rfl⟩, ⟨_, rfl, rfl⟩, ⟨_, rfl, rfl⟩, ⟨_, rfl, rfl⟩⟩

theorem witness_ClearSessionCommand :
    ∃ t u, exec (.clearSession 0) inSession = .next t ∧ exec (.clearSession 0) t = .next u := ⟨_, _, rfl, rfl⟩

theorem witness_CommandsWriteOnlyTheirWriteSet :
    ∃ t, exec (.lfsrLoad 0 0 3) State.reset = .next t ∧ Loc.ksbuf ∉ writeSet (.lfsrLoad 0 0 3) := ⟨_, rfl, by decide⟩

theorem witness_ResultsIgnoreEarlierRegisters :
    ∃ s s' t t', s ≠ s' ∧ s.mem = s'.mem ∧ s.draws = s'.draws ∧ s.ksLen = s'.ksLen ∧ s.seedValid = s'.seedValid ∧
      s.matched = s'.matched ∧ exec (.edcSector 0) s = .next t ∧ exec (.edcSector 0) s' = .next t' := by
  refine ⟨State.reset, { State.reset with lfsr := 7, ksbyte := 9 }, _, _, ?_, rfl, rfl, rfl, rfl, rfl, rfl, rfl⟩
  intro h
  exact absurd (congrArg State.lfsr h) (by decide)

/-! ### The keystream and the checksum -/

theorem witness_KeystreamLengthAndPrefix :
    (8 ≤ 2048) ∧ (8 : BitVec 12).toNat ≤ 2048 ∧
    ∃ t t', exec (.genKs 8 0 1) State.reset = .next t ∧ exec (.genKs 8 0 1) inSession = .next t' :=
  ⟨by decide, by decide, _, _, rfl, rfl⟩

theorem witness_ZeroSeedGivesZeros : State.reset.lfsr = 0 ∧ ([1, 2] : List Byte).length ≤ 2 := by decide

theorem witness_KeystreamBits : (0 < 1) ∧ (7 < 8) ∧ (14 ≤ 14) := by decide

theorem witness_GeneratorPeriod : (0x7FFF : Seed) ≠ 0 ∧ (0 < 1 ∧ 1 < 32767) ∧ (0 < 32766 ∧ 32766 < 32767) := by decide

theorem witness_KeystreamInjectiveFromTwoBytes :
    (2 ≤ 2) ∧ cypher 5 2 = cypher 5 2 ∧ (0x0000 : Seed) >>> 7 = (0x007F : Seed) >>> 7 := by decide

/-- Both forms of the integrator, for the clauses of the statement about EDC_BYTE. -/
theorem witness_EdcByteCommand : cand.refin = false ∧ ({ cand with refin := true } : EdcParams).refin = true ∧ (31 < 32) := by decide

theorem witness_EdcIsAffine : ([1, 2] : List Byte).length = ([3, 4] : List Byte).length ∧ cand.init = 0 ∧ cand.xorout = 0 := by decide

theorem witness_SingleBitFlip : 0 < ([5] : List Byte).length ∧ cand.poly.getLsbD 0 = true ∧ 7 < 8 := by decide

theorem witness_DecodeUndoesScrambling : (zeros 12).length = 12 ∧ (zeros 2048).length = 2048 :=
  ⟨List.length_replicate, List.length_replicate⟩

theorem edcFold_zeros (n : Nat) : edcFold cand 0 (zeros n) = 0 := by
  induction n with
  | zero => rfl
  | succ n ih => exact (congrArg (fun a => edcFold cand a (zeros n)) (show edcStep cand 0 0 = 0 by decide)).trans ih

theorem cypher_zero (n : Nat) : cypher 0 n = zeros n := by
  induction n with
  | zero => rfl
  | succ n ih =>
    show (byteStep 0).1 :: cypher (byteStep 0).2 n = 0 :: zeros n
    rw [show byteStep 0 = (0, 0) by decide, ih]

/-- The all-zero sector passes at seed 0 under CAND. -/
theorem witness_CandidateAcceptsAtMostOneSeed :
    cand.init = 0 ∧ cand.xorout = 0 ∧ (zeros 2064).length = 2064 ∧ trial cand (zeros 2064) 0 = true := by
  refine ⟨rfl, rfl, List.length_replicate, ?_⟩
  have hs : ∀ a b, slice (zeros 2064) a b = zeros (min (b - a) (2064 - a)) := by
    intro a b
    rw [slice, zeros, List.drop_replicate, List.take_replicate]
    rfl
  have hx : ∀ n, xorBytes (zeros n) (zeros n) = zeros n := by
    intro n
    simp [xorBytes, zeros]
  have hc : candidate (zeros 2064) (cypher 0 2048) = zeros 2060 := by
    unfold candidate
    rw [hs, hs, cypher_zero, show min (edcSpan - hdrLen) (2064 - hdrLen) = 2048 from rfl, hx]
    exact List.replicate_append_replicate
  have hm : decodeMatches cand (zeros 2064) (cypher 0 2048) = true := by
    unfold decodeMatches decodeAcc
    rw [hc, show cand.init = 0 from rfl, edcFold_zeros, trailing, hs]
    decide
  unfold trial decodeFn
  rw [if_pos hm]
  rfl

/-! ### The step and the bus -/

theorem witness_StepRunsTheLatchedCommand :
    ((waiting (.busy 0x20000000) []).rst = false ∧ (waiting (.busy 0x20000000) []).phase = .busy 0x20000000 ∧
      decode 0x20000000 = .lfsrStep 0 ∧ (waiting (.busy 0x20000000) []).inputs = []) ∧
    (waiting (.busy 0x20000000) [.engine]).inputs = [.engine] ∧ (State.reset.phase = .idle ∧ State.reset.inputs = []) ∧
    0x20000000 < 2 ^ 32 := by
  refine ⟨⟨rfl, rfl, ?_, rfl⟩, rfl, ⟨rfl, rfl⟩, ?_⟩ <;> decide

/-- Every event statement's premises at an IDLE engine and at a BUSY one, with RST released. -/
theorem witness_events (p : Phase) (e : Event) : (waiting p [e]).rst = false ∧ (waiting p [e]).inputs = [e] ∧ (waiting p [e]).phase = p :=
  ⟨rfl, rfl, rfl⟩

theorem witness_SecbufWrites :
    (0x1000 ≤ (0x180F : Offset).toNat ∧ (0x180F : Offset).toNat < 0x1810) ∧
    (0x1000 ≤ (0x180C : Offset).toNat ∧ (0x180C : Offset).toNat < 0x1810 ∧ (0x180C : Offset).toNat % 4 = 0) := by decide

theorem witness_IgnoredWrites :
    ((0x020 : Offset).toNat ∈ [0x008, 0x00C, 0x010, 0x014, 0x018, 0x01C, 0x020]) ∧
    (0x2000 ≤ (0x27FC : Offset).toNat ∧ (0x27FC : Offset).toNat < 0x2800 ∧ (0x27FC : Offset).toNat % 4 = 0) ∧
    (0x3000 ≤ (0x380F : Offset).toNat ∧ (0x380F : Offset).toNat < 0x3810) := by decide

/-- Legal accesses of every kind, at the ends of the regions. -/
def legalOnes : List (Nat × Offset) :=
  [(4, 0x000), (4, 0x004), (4, 0x008), (4, 0x00C), (4, 0x010), (4, 0x014), (4, 0x018), (4, 0x01C), (4, 0x020), (4, 0x024),
   (1, 0x1000), (1, 0x180F), (4, 0x180C), (1, 0x2001), (4, 0x27FC), (1, 0x380F), (4, 0x3000)]

theorem legalOnes_legal : ∀ x ∈ legalOnes, legalAccess x.1 x.2.toNat := by
  unfold legalOnes legalAccess
  decide

theorem witness_ReadsWhileIdle : ∀ x ∈ legalOnes,
    (waiting .idle [.read x.1 x.2]).rst = false ∧ (waiting .idle [.read x.1 x.2]).phase = .idle ∧
    (waiting .idle [.read x.1 x.2]).inputs = .read x.1 x.2 :: [] ∧ legalAccess x.1 x.2.toNat :=
  fun x h => ⟨rfl, rfl, rfl, legalOnes_legal x h⟩

theorem witness_ReadsWhileBusy : ∀ x ∈ legalOnes,
    (waiting (.busy 0x90000000) [.read x.1 x.2]).rst = false ∧
    (waiting (.busy 0x90000000) [.read x.1 x.2]).phase = .busy 0x90000000 ∧
    (waiting (.busy 0x90000000) [.read x.1 x.2]).inputs = .read x.1 x.2 :: [] ∧ legalAccess x.1 x.2.toNat :=
  fun x h => ⟨rfl, rfl, rfl, legalOnes_legal x h⟩

theorem witness_legalAccess :
    legalAccess 4 (0x024 : Offset).toNat ∧ legalAccess 1 (0x1000 : Offset).toNat ∧ legalAccess 4 (0x180C : Offset).toNat ∧
    legalAccess 4 (0x27FC : Offset).toNat ∧ legalAccess 1 (0x380F : Offset).toNat ∧ ¬ legalAccess 1 (0x004 : Offset).toNat ∧
    ¬ legalAccess 4 (0x028 : Offset).toNat ∧ ¬ legalAccess 4 (0x1002 : Offset).toNat ∧ ¬ legalAccess 2 (0x1000 : Offset).toNat ∧
    ¬ legalAccess 1 (0x3810 : Offset).toNat := by
  refine ⟨?_, ?_, ?_, ?_, ?_, ?_, ?_, ?_, ?_, ?_⟩ <;> (simp only [legalAccess]; decide)

/-- Two reads of SEED in a row, and of a written SECBUF byte. -/
theorem witness_ReadsHaveNoSideEffect :
    (∃ t u, step (waiting .idle [.read 4 0x018, .read 4 0x018]) = .next t ∧ step t = .next u) ∧
    (∃ t u, step { waiting .idle [.read 1 0x1000, .read 1 0x1000] with mem := [(0x1000, 9)] } = .next t ∧ step t = .next u) ∧
    ∀ k, k < 1 → (({ waiting .idle [] with mem := [(0x1000, 9)] } : State).mem.get ((0x1000 : Offset).toNat + k)).isSome = true := by
  refine ⟨⟨_, _, rfl, rfl⟩, ⟨_, _, rfl, rfl⟩, ?_⟩
  intro k hk
  have : k = 0 := by omega
  subst this
  rfl

theorem witness_InterruptLine :
    (∃ t, exec (.nop 0) State.reset = .next t) ∧ (∃ t, step (waiting .idle [.write 4 0x000 0]) = .next t) ∧
    (∃ t, step (waiting .idle [.write 4 0x004 2]) = .next t ∧ (2 : Word).getLsbD 1 = true) ∧
    (∃ t, step (waiting .idle [.write 4 0x024 1]) = .next t) := by
  refine ⟨⟨_, rfl⟩, ⟨_, rfl⟩, ⟨_, rfl, ?_⟩, ⟨_, rfl⟩⟩
  decide

theorem witness_ResetInput (e : Event) : (underReset [e]).rst = true ∧ (underReset [e]).inputs = [e] ∧ (underReset []).inputs = [] :=
  ⟨rfl, rfl, rfl⟩

theorem witness_StatusReadAfterIssue :
    (∃ t u, step (waiting .idle [.write 4 0x000 0x20000000, .read 4 0x004]) = .next t ∧ step t = .next u) ∧
    (∃ t u w, step (waiting .idle [.write 4 0x000 0x20000000, .engine, .read 4 0x004]) = .next t ∧ step t = .next u ∧
      step u = .next w) := ⟨⟨_, _, rfl, rfl⟩, ⟨_, _, _, rfl, rfl, rfl⟩⟩

/-! ### Whole-machine rules -/

theorem witness_EveryStepKeepsTheInvariant :
    ∃ s t : State, s.Inv ∧ step s = .next t ∧ t ≠ s := by
  refine ⟨waiting .idle [.write 1 0x1000 5], _, ?_, rfl, ?_⟩
  · refine ⟨rfl, ?_, by decide, ?_, by decide, ?_, fun _ => rfl⟩
    · intro a h; cases h
    · intro i hi; exact absurd hi (Nat.not_lt_zero _)
    · intro c h; cases h
  · intro h
    exact absurd (congrArg State.inputs h) (by decide)

theorem witness_SessionSeed :
    (∃ t, inSession.seedValid = true ∧ step inSession = .next t) ∧
    (∃ t, State.reset.seedValid = false ∧ step (waiting (.busy 0xA0000005) []) = .next t ∧ t.seedValid = true) :=
  ⟨⟨_, rfl, rfl⟩, ⟨_, rfl, rfl, rfl⟩⟩

/-- One step for each clause: it has a next state, with RST released, and the location of the clause changes. -/
def changes {α : Type} (f : State → α) (s : State) : Prop := ∃ t, s.rst = false ∧ step s = .next t ∧ f t ≠ f s

theorem witness_WhoWrites_lfsr : changes State.lfsr (waiting (.busy 0x10000005) []) := ⟨_, rfl, rfl, by decide⟩
theorem witness_WhoWrites_ksbyte : changes State.ksbyte { waiting (.busy 0x30000000) [] with lfsr := 0x4400 } := ⟨_, rfl, rfl, by decide⟩
theorem witness_WhoWrites_seed : changes State.seed (waiting (.busy 0xA0000005) []) := by
  refine ⟨_, rfl, rfl, ?_⟩
  show (5 : Seed) ≠ 0
  decide
theorem witness_WhoWrites_ksLen : changes State.ksLen (waiting (.busy 0x40010005) [.engine]) := by
  refine ⟨_, rfl, rfl, ?_⟩
  show (1 : BitVec 12) ≠ 0
  decide
theorem witness_WhoWrites_scanCount : changes State.scanCount { waiting (.busy 0xB0000000) [] with scanCount := 7 } :=
  ⟨_, rfl, rfl, by decide⟩
theorem witness_WhoWrites_outbit : changes State.outbit { waiting (.busy 0x20000000) [] with lfsr := 0x4000 } := ⟨_, rfl, rfl, by decide⟩
theorem witness_WhoWrites_seedValid : changes State.seedValid { waiting (.busy 0xB0000000) [] with seedValid := true } :=
  ⟨_, rfl, rfl, by decide⟩
theorem witness_WhoWrites_err : changes State.err (waiting (.busy 0xF0000000) []) := ⟨_, rfl, rfl, by decide⟩
theorem witness_WhoWrites_cmd : changes State.cmd (waiting .idle [.write 4 0x000 0x90000000]) := ⟨_, rfl, rfl, by decide⟩
theorem witness_WhoWrites_phase :
    changes State.phase (waiting .idle [.write 4 0x000 0]) ∧ changes State.phase (waiting (.busy 0) []) :=
  ⟨⟨_, rfl, rfl, by decide⟩, ⟨_, rfl, rfl, by decide⟩⟩
theorem witness_WhoWrites_done :
    changes State.done (waiting (.busy 0) []) ∧ changes State.done { waiting .idle [.write 4 0x000 0] with done := true } ∧
    changes State.done { waiting .idle [.write 4 0x004 2] with done := true } :=
  ⟨⟨_, rfl, rfl, by decide⟩, ⟨_, rfl, rfl, by decide⟩, ⟨_, rfl, rfl, by decide⟩⟩
theorem witness_WhoWrites_overrun :
    changes State.overrun (waiting (.busy 0) [.write 1 0x180F 0]) ∧
    changes State.overrun { waiting .idle [.write 4 0x004 0x10000] with overrun := true } :=
  ⟨⟨_, rfl, rfl, by decide⟩, ⟨_, rfl, rfl, by decide⟩⟩
theorem witness_WhoWrites_irqEn : changes State.irqEn (waiting (.busy 0) [.write 4 0x024 1]) := ⟨_, rfl, rfl, by decide⟩
theorem witness_WhoWrites_rst : changes State.rst (waiting .idle [.rst true]) := ⟨_, rfl, rfl, by decide⟩
theorem witness_WhoWrites_mem :
    changes (fun s => s.mem.get 0x180F) (waiting .idle [.write 4 0x180C 0]) ∧
    changes (fun s => s.mem.get 0x2000) (waiting (.busy 0x40010005) []) :=
  ⟨⟨_, rfl, rfl, by decide⟩, ⟨_, rfl, rfl, by decide⟩⟩

theorem witness_WhoWrites_edcAcc : changes State.edcAcc { waiting (.busy 0x50000000) [] with edcAcc := Config.edc.init + 1 } := by
  refine ⟨_, rfl, rfl, fun h => ?_⟩
  have e : Config.edc.init = Config.edc.init + 1 := h
  simp at e

/-- What EDC_SECTOR finds in the reset state's buffers. -/
def foundMatch : Bool := edcFinal Config.edc (sectorAcc Config.edc (secbuf State.reset)) == trailing (secbuf State.reset)

/-- A BUSY state with EDC_SECTOR latched and MATCH as given. -/
def sectorLatched (b : Bool) : State := { waiting (.busy 0x70000000) [] with matched := b }

theorem sectorLatched_matched (b : Bool) : (sectorLatched b).matched = b := rfl

theorem witness_WhoWrites_matched : changes State.matched (sectorLatched !foundMatch) := by
  generalize hf : (!foundMatch) = b
  have hd : decode 0x70000000 = .edcSector 0 := by decide
  have hb : secbuf (sectorLatched b) = secbuf State.reset := bytesAt_congr _ _ secBase secLen rfl rfl
  have he : (completedState (.edcSector 0) (sectorLatched b)).matched = foundMatch := by
    unfold completedState
    rw [if_pos (by decide), finish_matched]
    show (edcFinal _ (sectorAcc _ (secbuf (sectorLatched b))) == trailing (secbuf (sectorLatched b))) = foundMatch
    rw [hb, foundMatch]
  refine ⟨completedState (.edcSector 0) (sectorLatched b), rfl, ?_, ?_⟩
  · rw [← exec_eq_next, ← hd]
    exact engineTurn_busy (sectorLatched b) 0x70000000 rfl rfl
  · rw [he, sectorLatched_matched, ← hf]
    exact (Bool.not_ne_self foundMatch).symm

theorem witness_WhoWrites_underReset :
    (∃ t, (underReset [.engine]).rst = true ∧ step (underReset [.engine]) = .next t) ∧
    (∃ t, (underReset [.rst false]).rst = true ∧ step (underReset [.rst false]) = .next t) := ⟨⟨_, rfl, rfl⟩, ⟨_, rfl, rfl⟩⟩

theorem witness_OverrunIsSticky :
    (∃ s t : State, s.overrun = true ∧ step s = .next t ∧ t.overrun = true) ∧
    (∃ t, (waiting (.busy 0x90000000) [.write 4 0x000 0]).overrun = false ∧
      step (waiting (.busy 0x90000000) [.write 4 0x000 0]) = .next t ∧ t.overrun = true) :=
  ⟨⟨{ State.reset with overrun := true }, _, rfl, rfl, rfl⟩, ⟨_, rfl, rfl, rfl⟩⟩

theorem witness_SampleIsImmutableWhileBusy :
    ∃ t, (waiting (.busy 0x90000000) [.write 1 0x1000 5]).phase = .busy 0x90000000 ∧
      step (waiting (.busy 0x90000000) [.write 1 0x1000 5]) = .next t := ⟨_, rfl, rfl⟩

theorem expand_loadSec (img : List Byte) (h : img.length = 2064) : expand (.loadSec img) = some (loadSecEvents img) := if_pos h

theorem witness_Loadsec :
    (zeros 2064).length = 2064 ∧ expand (.loadSec (zeros 2064)) = some (loadSecEvents (zeros 2064)) ∧
    (waiting .idle (loadSecEvents (zeros 2064) ++ [])).inputs = loadSecEvents (zeros 2064) ++ [] := by
  have hz : (zeros 2064).length = 2064 := List.length_replicate
  exact ⟨hz, expand_loadSec _ hz, rfl⟩

theorem witness_AssemblerGivesLegalWords :
    (∀ v, Asm.genKs 1 2048 ≠ .word v) ∧ assemble (.genKs 1 2048) = some 0x48000001 ∧
    (0x7FFF ≤ 0x7FFF ∧ 2048 ≤ 2048 ∧ 0xFF ≤ 0xFF) := by
  refine ⟨fun v h => (by cases h), by decide, by decide⟩

end Sys2Proof.Tests
end

section
/-! SUPPORT. What a step can do with RST released and under RST, as one inversion lemma each, on which the statements about the
state's registers and buffers rest (10_state.md R23 to R38, 70_reset_and_hazards.md R240). -/

namespace Sys2Proof.Machine

/-! ### Fields after a completion step -/

section
variable (i : Instr) (s : State)

/-- A command completes by its rule, its fields being legal, or with INVALID_ARGUMENT alone. -/
theorem completedState_cases :
    ((i.wf || i.isReserved) = true ∧ completedState i s = finish (bodyOf i s).2 (bodyOf i s).1) ∨
    completedState i s = finish .invalidArgument s := by
  unfold completedState
  split
  · exact .inl ⟨by assumption, rfl⟩
  · exact .inr rfl

/-- Outside its results a command changes what the STATUS update changes, and nothing else. -/
theorem completedState_same :
    SameOutside { s with phase := .idle, done := true, err := (completedState i s).err, draws := s.draws + 1 }
      (completedState i s) := by
  rcases completedState_cases i s with ⟨-, e⟩ | e <;> rw [e]
  · have h := bodyOf_same i s
    exact ⟨rfl, h.cmd, rfl, rfl, h.overrun, h.irqEn, h.rst, h.inputs, h.reply, congrArg (· + 1) h.draws⟩
  · exact SameOutside.refl _

@[simp] theorem completedState_phase : (completedState i s).phase = .idle := (completedState_same i s).phase
@[simp] theorem completedState_done : (completedState i s).done = true := (completedState_same i s).done
@[simp] theorem completedState_cmd : (completedState i s).cmd = s.cmd := (completedState_same i s).cmd
@[simp] theorem completedState_overrun : (completedState i s).overrun = s.overrun := (completedState_same i s).overrun
@[simp] theorem completedState_irqEn : (completedState i s).irqEn = s.irqEn := (completedState_same i s).irqEn
@[simp] theorem completedState_rst : (completedState i s).rst = s.rst := (completedState_same i s).rst
@[simp] theorem completedState_inputs : (completedState i s).inputs = s.inputs := (completedState_same i s).inputs
@[simp] theorem completedState_reply : (completedState i s).reply = s.reply := (completedState_same i s).reply
@[simp] theorem completedState_draws : (completedState i s).draws = s.draws + 1 := (completedState_same i s).draws

end

/-! ### The step, by the level of RST -/

/-- Everything a step can do with RST released, with the event it takes and the guards of what it does. -/
inductive ReleasedStep (s : State) : State → Prop where
  /-- The engine waits, a read is answered, a write is ignored or RST stays low: nothing of the block changes. -/
  | quiet (ins : List Event) (r : Reply) (d : Nat) : ReleasedStep s { s with inputs := ins, reply := r, draws := d }
  /-- RST is raised. -/
  | raise (rest : List Event) (hi : s.inputs = .rst true :: rest) : ReleasedStep s { s with inputs := rest, rst := true }
  /-- The engine's turn completes the latched word. -/
  | complete (c : Word) (ins : List Event) (hp : s.phase = .busy c)
      (hi : (s.inputs = [] ∧ ins = []) ∨ s.inputs = .engine :: ins) :
      ReleasedStep s (completedState (decode c) { s with inputs := ins })
  /-- The host's CMD write is latched. -/
  | issue (c : Word) (rest : List Event) (hp : s.phase = .idle) (hi : s.inputs = .write 4 0x000 c :: rest) :
      ReleasedStep s { s with inputs := rest, reply := .accepted, phase := .busy c, cmd := c, done := false }
  /-- The host writes STATUS. -/
  | status (v : Word) (rest : List Event) (hi : s.inputs = .write 4 0x004 v :: rest) :
      ReleasedStep s { writeStatus v s with inputs := rest, reply := .accepted }
  /-- The host writes IRQ_EN. -/
  | irqEn (v : Word) (rest : List Event) (hi : s.inputs = .write 4 0x024 v :: rest) :
      ReleasedStep s { writeIrqEn v s with inputs := rest, reply := .accepted }
  /-- The host's SECBUF write is stored. -/
  | store (n : Nat) (off : Offset) (v : Word) (bs : List Byte) (rest : List Event) (hp : s.phase = .idle)
      (hi : s.inputs = .write n off v :: rest) (hl : bs.length = n) (h1 : 0x1000 ≤ off.toNat) (h2 : off.toNat + n ≤ 0x1810) :
      ReleasedStep s { storeBytes off.toNat bs s with inputs := rest, reply := .accepted }
  /-- The host's CMD or SECBUF write is dropped. -/
  | drop (c : Word) (n : Nat) (off : Offset) (v : Word) (rest : List Event) (hp : s.phase = .busy c)
      (hi : s.inputs = .write n off v :: rest) (ho : off = 0x000 ∨ (0x1000 ≤ off.toNat ∧ off.toNat < 0x1810)) :
      ReleasedStep s { s with inputs := rest, reply := .accepted, overrun := true }

/-- A legal write with RST released is one of the writes of `ReleasedStep`. -/
theorem releasedStep_of_write {s : State} {n : Nat} {off : Offset} {v : Word} {rest : List Event} {g : Target}
    (hi : s.inputs = .write n off v :: rest) (hg : resolve n off = .ok g) :
    ReleasedStep s { writeTarget g v { s with inputs := rest } with reply := .accepted } := by
  rcases writeTarget_cases n off g v { s with inputs := rest } hg with
    ⟨rfl, rfl, hp, e⟩ | ⟨rfl, rfl, e⟩ | ⟨rfl, rfl, e⟩ | ⟨hp, bs, e, hl, h1, h2⟩ | ⟨⟨c, hp⟩, ho, e⟩ | e <;> rw [e]
  · exact .issue v rest hp hi
  · exact .status v rest hi
  · exact .irqEn v rest hi
  · exact .store n off v bs rest hp hi hl h1 h2
  · exact .drop c n off v rest hp hi ho
  · exact .quiet rest .accepted s.draws

/-- Everything a step can do with RST released. -/
theorem step_released {s t : State} (hr : s.rst = false) (h : step s = .next t) : ReleasedStep s t := by
  rcases step_events s t h with ⟨s₀, hs, he⟩ | ⟨rest, s₀, rfl, he⟩
  · obtain ⟨ins, rfl, hi⟩ : ∃ ins, s₀ = { s with inputs := ins } ∧
        ((s.inputs = [] ∧ ins = []) ∨ s.inputs = .engine :: ins) := by
      rcases hs with ⟨hi, rfl⟩ | ⟨rest, hi, rfl⟩
      · exact ⟨[], by rw [← hi], .inl ⟨hi, rfl⟩⟩
      · exact ⟨rest, rfl, .inr hi⟩
    rcases he with rfl | ⟨-, c, hp, rfl⟩
    · exact .quiet ins s.reply s.draws
    · exact .complete c ins hp hi
  · rcases he with ⟨n, off, hi, ⟨hr', -⟩ | ⟨-, g, -, rfl⟩⟩ | ⟨n, off, v, hi, ⟨hr', -⟩ | ⟨-, g, hg, rfl⟩⟩ | ⟨hi, rfl⟩ |
      ⟨hi, ⟨hr', -⟩ | ⟨-, rfl⟩⟩
    · cases hr.symm.trans hr'
    · exact .quiet rest (.data (readTarget g { s with inputs := rest })) (s.draws + 1)
    · cases hr.symm.trans hr'
    · exact releasedStep_of_write hi hg
    · exact .raise rest hi
    · cases hr.symm.trans hr'
    · exact .quiet rest s.reply s.draws

/-- Under RST a step takes an event and answers an access as not served, or it is the release of RST (70_reset_and_hazards.md R240). -/
theorem step_underReset {s t : State} (hr : s.rst = true) (h : step s = .next t) :
    t = { s with inputs := t.inputs, reply := t.reply } ∨
    ∃ rest, s.inputs = .rst false :: rest ∧ t = releaseReset { s with inputs := rest } := by
  rcases step_events s t h with ⟨s₀, hs, he⟩ | ⟨rest, s₀, rfl, he⟩
  · rcases he with rfl | ⟨hr', -⟩
    · rcases hs with ⟨-, rfl⟩ | ⟨rest, -, rfl⟩ <;> exact .inl rfl
    · cases hr.symm.trans hr'
  · rcases he with ⟨n, off, hi, ⟨-, rfl⟩ | ⟨hr', -⟩⟩ | ⟨n, off, v, hi, ⟨-, rfl⟩ | ⟨hr', -⟩⟩ | ⟨hi, rfl⟩ |
      ⟨hi, ⟨-, rfl⟩ | ⟨hr', -⟩⟩
    · exact .inl rfl
    · cases hr.symm.trans hr'
    · exact .inl rfl
    · cases hr.symm.trans hr'
    · exact .inl (by rw [← hr])
    · exact .inr ⟨rest, hi, rfl⟩
    · cases hr.symm.trans hr'

end Sys2Proof.Machine
end

section
/-! PROOF. Every step keeps the block's invariant: the host's SECBUF writes and each command's rule keep it, and what else a step does
touches nothing it speaks of. -/

namespace Sys2Proof.Machine

/-! ### Lengths and ranges -/

theorem cypher_length (seed : Seed) (n : Nat) : (cypher seed n).length = n := by
  induction n generalizing seed with
  | zero => rfl
  | succ n ih => rw [cypher, List.length_cons, ih]

theorem length_slice_le (bs : List Byte) (a b : Nat) : (slice bs a b).length ≤ b - a := List.length_take_le _ _

/-- A decoded sector is no longer than OUTBUF (10_state.md R38). -/
theorem length_decoded_le (img ks : List Byte) : (candidate img ks ++ slice img edcSpan secLen).length ≤ 2064 := by
  have hhdr : (slice img 0 hdrLen).length ≤ 12 := length_slice_le img 0 hdrLen
  have hpay : (slice img hdrLen edcSpan).length ≤ 2048 := length_slice_le img hdrLen edcSpan
  have htrl : (slice img edcSpan secLen).length ≤ 4 := length_slice_le img edcSpan secLen
  simp only [candidate, xorBytes, List.length_append, List.length_zipWith]
  omega

/-- SCAN_COUNT after a search that found a seed (43_search_session.md R184). -/
theorem scanCount_found_le (seed : Seed) : (seed.setWidth 16 + 1 : BitVec 16).toNat ≤ 0x8000 := by
  have hlt := seed.isLt
  rw [BitVec.toNat_add, BitVec.toNat_setWidth, show (1 : BitVec 16).toNat = 1 from rfl]
  omega

/-! ### The offsets of the buffers -/

theorem inBuffers_sec {a : Nat} (h1 : 0x1000 ≤ a) (h2 : a < 0x1810) : inBuffers a = true := by
  unfold inBuffers; rw [region_sec a h1 h2]

theorem inBuffers_ks {a : Nat} (h1 : 0x2000 ≤ a) (h2 : a < 0x2800) : inBuffers a = true := by
  unfold inBuffers; rw [region_ks a h1 h2]

theorem inBuffers_out {a : Nat} (h1 : 0x3000 ≤ a) (h2 : a < 0x3810) : inBuffers a = true := by
  unfold inBuffers; rw [region_out a h1 h2]

/-- After a write, the written addresses are those written before and those of the run. -/
theorem isSome_get_setBlock (m : Memory) (base : Nat) (bs : List Byte) (a : Nat) :
    ((m.setBlock base bs).get a).isSome = true ↔ (base ≤ a ∧ a < base + bs.length) ∨ (m.get a).isSome = true := by
  rw [get_setBlock]
  split
  · have hlt : a - base < bs.length := by omega
    simp [*]
  · simp [*]

/-! ### What keeps the invariant -/

section
variable {s : State} (h : s.Inv)
include h

/-- A write of bytes inside the buffers. -/
theorem inv_storeBytes {base : Nat} {bs : List Byte} (hb : ∀ a, base ≤ a → a < base + bs.length → inBuffers a = true) :
    (storeBytes base bs s).Inv :=
  { h with
    memWf := wf_setBlock s.mem base bs h.memWf
    memMapped := fun a ha => ((isSome_get_setBlock s.mem base bs a).mp ha).elim (fun r => hb a r.1 r.2) (h.memMapped a)
    ksWritten := fun i hi => (isSome_get_setBlock s.mem base bs _).mpr (.inr (h.ksWritten i hi)) }

/-- KSBUF filled from its start, with KS_LEN the number of bytes (10_state.md R32). -/
theorem inv_fillKsbuf {bs : List Byte} {len : BitVec 12} (hl : bs.length = len.toNat) (hle : len.toNat ≤ 2048) :
    ({ storeBytes ksBase bs s with ksLen := len } : State).Inv :=
  have hb : ksBase + bs.length ≤ 0x2800 := Nat.add_le_add_left (hl ▸ hle) 0x2000
  { inv_storeBytes h fun _ h1 h2 => inBuffers_ks h1 (h2.trans_le hb) with
    ksLenLe := hle
    ksWritten := fun i hi => (isSome_get_setBlock s.mem ksBase bs _).mpr
      (.inl ⟨Nat.le_add_right ksBase i, Nat.add_lt_add_left (hi.trans_eq hl.symm) ksBase⟩) }

/-- A session seed accepted (43_search_session.md R182, R186). -/
theorem inv_acceptSeed (seed : Seed) : (acceptSeed seed s).Inv :=
  { inv_fillKsbuf h (len := BitVec.ofNat 12 ksMax) (cypher_length seed ksMax) (by decide) with seedZero := fun hv => by cases hv }

/-- A checksum's results, which the invariant does not speak of. -/
theorem inv_edcResult (a : Word) (m : Bool) : ({ s with edcAcc := a, matched := m } : State).Inv := { h with }

theorem inv_decodeBody (p : EdcParams) : (decodeBody p s).1.Inv := by
  by_cases hk : s.ksLen.toNat = 2048
  · cases hm : decodeMatches p (secbuf s) (ksbuf s)
    · rw [decodeBody_mismatch p s hk hm]
      exact inv_edcResult h _ _
    · rw [decodeBody_match p s hk hm]
      have hb := Nat.add_le_add_left (length_decoded_le (secbuf s) (ksbuf s)) outBase
      exact { inv_storeBytes h fun _ h1 h2 => inBuffers_out h1 (h2.trans_le hb) with }
  · rw [decodeBody_short p s hk]
    exact h

theorem inv_searchBody (p : EdcParams) : (searchBody p s).1.Inv := by
  cases hv : s.seedValid
  · cases hf : searchFn p (secbuf s) with
    | none =>
      rw [searchBody_notFound p s hv hf]
      exact { h with scanCountLe := Nat.le_refl 0x8000 }
    | some seed =>
      rw [searchBody_found p s seed hv hf]
      exact { inv_acceptSeed h seed with scanCountLe := scanCount_found_le seed }
  · rw [searchBody_inSession p s hv]
    exact h

theorem inv_setSeedBody (seed : Seed) : (setSeedBody seed s).1.Inv := by
  cases hv : s.seedValid
  · rw [setSeedBody_accepts seed s hv]
    exact inv_acceptSeed h seed
  · rw [setSeedBody_inSession seed s hv]
    exact h

/-- Every command's rule, its fields being legal: GEN_KS writes at most 2048 bytes. -/
theorem inv_bodyOf {i : Instr} (hl : (i.wf || i.isReserved) = true) : (bodyOf i s).1.Inv := by
  cases i with
  | genKs len seed15 seed =>
    obtain ⟨hle, -⟩ := (formatGLegal_iff len seed15).mp ((Bool.or_false _).symm.trans hl)
    exact { inv_fillKsbuf h (cypher_length seed len.toNat) hle with }
  | decodeSector mbz => exact inv_decodeBody h Config.edc
  | search mbz => exact inv_searchBody h Config.edc
  | setSeed mbz seed15 seed => exact inv_setSeedBody h seed
  | clearSession mbz => exact { h with scanCountLe := Nat.zero_le _, seedZero := fun _ => rfl }
  | edcSector mbz => exact inv_edcResult h _ _
  | nop mbz | lfsrLoad mbz seed15 seed | lfsrStep mbz | lfsrByte mbz | edcClear mbz | edcByte mbz byte | reserved low =>
    exact { h with }

/-- The STATUS update that ends a command leaves the engine IDLE. -/
theorem inv_finish (e : Err) : (finish e s).Inv := { h with busyCmd := fun c hc => by cases hc }

theorem inv_completedState (i : Instr) : (completedState i s).Inv := by
  rcases completedState_cases i s with ⟨hl, e⟩ | e <;> rw [e]
  · exact inv_finish (inv_bodyOf h hl) _
  · exact inv_finish h _

/-- Every step with RST released. -/
theorem inv_releasedStep {t : State} (ht : ReleasedStep s t) : t.Inv := by
  cases ht with
  | complete c ins hp hi => exact inv_completedState (s := { s with inputs := ins }) { h with } (decode c)
  | issue c rest hp hi =>
    exact { h with busyCmd := fun _ hc => ⟨Phase.busy.inj hc, rfl⟩ }
  | status v rest hi =>
    exact { h with busyCmd := fun c hc => ⟨(h.busyCmd c hc).1, by simp [(h.busyCmd c hc).2]⟩ }
  | store n off v bs rest hp hi hl h1 h2 =>
    exact { inv_storeBytes h (base := off.toNat) (bs := bs) fun a ha hb => inBuffers_sec (by omega) (by omega) with }
  | quiet | raise | irqEn | drop => exact { h with }

end

/-- Reset meets the invariant, whatever events are to come (70_reset_and_hazards.md R240). -/
theorem inv_releaseReset (s : State) : (releaseReset s).Inv where
  memWf := wf_reset
  memMapped := fun a ha => by cases ha
  ksLenLe := Nat.zero_le _
  ksWritten := fun i hi => absurd hi (Nat.not_lt_zero i)
  scanCountLe := Nat.zero_le _
  busyCmd := fun c hc => by cases hc
  seedZero := fun _ => rfl

theorem inv_step {s t : State} (h : s.Inv) (hs : step s = .next t) : t.Inv := by
  cases hr : s.rst
  · exact inv_releasedStep h (step_released hr hs)
  · rcases step_underReset hr hs with e | ⟨rest, -, rfl⟩
    · rw [e]; exact { h with }
    · exact inv_releaseReset _

end Sys2Proof.Machine

namespace Sys2Proof.Claims
open Sys2Proof.Machine

/-- Settles O53: by the level of RST and the cases of a step, the invariant is kept by what each does. -/
theorem everyStepKeepsTheInvariant : Obligations.EveryStepKeepsTheInvariant := fun _ _ h hs => inv_step h hs

end Sys2Proof.Claims
end

section
/-! PROOF. What a host read returns and what a write to STATUS or IRQ_EN does (10_state.md R24 to R35; 20_memory.md R52 to R56). -/

namespace Sys2Proof.Machine
open Sys2Proof.Claims

/-! ### The step of an access -/

/-- What a read reaches does not depend on the events still to come. -/
@[simp] theorem readTarget_inputs (g : Target) (s : State) (ins : List Event) :
    readTarget g { s with inputs := ins } = readTarget g s := by
  cases g with
  | reg r => cases r <;> rfl
  | byte b a => cases b <;> rfl
  | word b a => cases b <;> rfl

theorem step_event {s : State} {e : Event} {rest : List Event} (hi : s.inputs = e :: rest) :
    step s = perform e { s with inputs := rest } := by
  rw [step, nextEvent, hi]

/-- A legal read with RST released is answered, and changes nothing of the block (20_memory.md R55, R59). -/
theorem step_read {s : State} {n : Nat} {off : Offset} {rest : List Event} {g : Target} (hr : s.rst = false)
    (hi : s.inputs = .read n off :: rest) (hg : resolve n off = .ok g) :
    step s = .next { s with inputs := rest, reply := .data (readTarget g s), draws := s.draws + 1 } := by
  rw [step_event hi, perform, if_neg (ne_true_of_eq_false hr), hostRead, hg, ← readTarget_inputs g s rest]

/-- A legal write with RST released is accepted (20_memory.md R56). -/
theorem step_write {s : State} {n : Nat} {off : Offset} {v : Word} {rest : List Event} {g : Target} (hr : s.rst = false)
    (hi : s.inputs = .write n off v :: rest) (hg : resolve n off = .ok g) :
    step s = .next { writeTarget g v { s with inputs := rest } with reply := .accepted } := by
  rw [step_event hi, perform, if_neg (ne_true_of_eq_false hr), hostWrite, hg]

/-! ### What a legal access reaches -/

theorem regAt_lt {a : Nat} {r : Reg} (h : regAt a = some r) : a < 0x28 := by
  rw [regAt_eq a r h]
  cases r <;> simp only [Nat.reduceLT]

/-- Each aligned offset below 0x28 is a register's (10_state.md R24). -/
theorem exists_regAt {a : Nat} (hlt : a < 0x28) (h4 : a % 4 = 0) : ∃ r, regAt a = some r := by
  obtain ⟨k, rfl⟩ := Nat.dvd_of_mod_eq_zero h4
  have hk : k < 10 := by omega
  interval_cases k <;> exact ⟨_, rfl⟩

/-- Every legal access reaches something (20_memory.md R54). -/
theorem exists_resolve_of_legalAccess {n : Nat} {off : Offset} (h : legalAccess n off.toNat) : ∃ g, resolve n off = .ok g := by
  rcases h with ⟨hlt, rfl, h4⟩ | ⟨hbuf, hn⟩
  · obtain ⟨r, hr⟩ := exists_regAt hlt h4
    exact ⟨.reg r, resolve_reg off r hr⟩
  · obtain ⟨b, hb⟩ : ∃ b, region off.toNat = .buf b := by
      rcases hbuf with ⟨h1, h2⟩ | ⟨h1, h2⟩ | ⟨h1, h2⟩
      · exact ⟨.sec, region_sec _ h1 h2⟩
      · exact ⟨.ks, region_ks _ h1 h2⟩
      · exact ⟨.out, region_out _ h1 h2⟩
    rcases hn with rfl | ⟨rfl, h4⟩
    · exact ⟨.byte b off.toNat, resolve_byte off b hb⟩
    · exact ⟨.word b off.toNat, resolve_word off b hb h4⟩

section
variable {n : Nat} {off : Offset} {g : Target} (hg : resolve n off = .ok g)
include hg

/-- A register's offset is reached by no other target (10_state.md R24). -/
theorem resolve_eq_reg {r : Reg} (h : regAt off.toNat = some r) : g = .reg r := by
  have hreg : region off.toNat = .regs := if_pos (regAt_lt h)
  rcases resolve_ok n off g hg with ⟨r', rfl, -, h'⟩ | ⟨b, -, -, hb⟩ | ⟨b, -, -, -, hb⟩
  · rw [h] at h'; cases h'; rfl
  · cases hreg.symm.trans hb
  · cases hreg.symm.trans hb

/-- Above the registers an access reaches one byte or four of a buffer, by its width (20_memory.md R54). -/
theorem resolve_eq_buf (h : 0x1000 ≤ off.toNat) :
    ∃ b, (n = 1 ∧ g = .byte b off.toNat) ∨ (n = 4 ∧ g = .word b off.toNat) := by
  rcases resolve_ok n off g hg with ⟨r, -, -, hr⟩ | ⟨b, rfl, hn, -⟩ | ⟨b, rfl, hn, -, -⟩
  · have hlt := regAt_lt hr
    omega
  · exact ⟨b, .inl ⟨hn, rfl⟩⟩
  · exact ⟨b, .inr ⟨hn, rfl⟩⟩

end

/-! ### Reads while the engine is IDLE -/

section
variable {s : State} (hp : s.phase = .idle)
include hp

theorem busySet_idle : busySet s = [] := by unfold busySet; rw [hp]

theorem readField_idle {w : Nat} (l : Loc) (v : BitVec w) : readField l v s = v.setWidth 32 := by
  unfold readField; rw [busySet_idle hp]; rfl

theorem readFlag_idle (l : Loc) (k : Nat) (v : Bool) : readFlag l k v s = v := by
  unfold readFlag; rw [busySet_idle hp]; rfl

theorem readStatus_idle : readStatus s = packStatus false s.done s.matched s.outbit s.seedValid (errCode s.err) s.overrun := by
  simp [readStatus, readFlag_idle hp, isBusy_idle s hp]

theorem bufBusy_idle (b : Buf) : bufBusy b s = false := by
  cases b <;> simp [bufBusy, busySet_idle hp]

theorem readTarget_byte_idle (b : Buf) (a : Nat) : readTarget (.byte b a) s = (byteAt s a).setWidth 32 := by
  simp [readTarget, bufBusy_idle hp]

theorem readTarget_word_idle (b : Buf) (a : Nat) :
    readTarget (.word b a) s = le32 (byteAt s a) (byteAt s (a + 1)) (byteAt s (a + 2)) (byteAt s (a + 3)) := by
  simp [readTarget, bufBusy_idle hp]

/-- Lane k of a 32-bit buffer read is the byte at offset k (20_memory.md R52). -/
theorem readTarget_lane_idle (b : Buf) (a k : Nat) (hk : k < 4) :
    (readTarget (.word b a) s).extractLsb' (8 * k) 8 = byteAt s (a + k) := by
  rw [readTarget_word_idle hp]
  obtain ⟨h0, h1, h2, h3⟩ := le32_lane (byteAt s a) (byteAt s (a + 1)) (byteAt s (a + 2)) (byteAt s (a + 3))
  interval_cases k
  · exact h0
  · exact h1
  · exact h2
  · exact h3

end

/-! ### The STATUS word as a number, and its reserved bits -/

theorem toNat_append_eq_add {m n : Nat} (a : BitVec m) (b : BitVec n) : (a ++ b).toNat = a.toNat * 2 ^ n + b.toNat := by
  rw [BitVec.toNat_append, ← Nat.shiftLeft_add_eq_or_of_lt b.isLt, Nat.shiftLeft_eq]

section
variable (busy done matched outbit seedValid overrun : Bool) (err : BitVec 3)

/-- STATUS with each field at its weight (10_state.md R26). -/
theorem packStatus_toNat : (packStatus busy done matched outbit seedValid err overrun).toNat =
    busy.toNat + done.toNat * 2 + matched.toNat * 4 + outbit.toNat * 8 + seedValid.toNat * 16 + err.toNat * 256 +
      overrun.toNat * 65536 := by
  simp only [packStatus, toNat_append_eq_add, BitVec.toNat_ofBool]
  norm_num
  ring

/-- The bits of STATUS that 10_state.md R26 does not list. -/
theorem packStatus_reserved : packStatus busy done matched outbit seedValid err overrun &&& 0xFFFEF8E0 = 0 := by
  have hfields : (0#15 ++ BitVec.ofBool overrun ++ 0#5 ++ err ++ 0#3 ++ BitVec.ofBool seedValid ++ BitVec.ofBool outbit
        ++ BitVec.ofBool matched ++ BitVec.ofBool done ++ BitVec.ofBool busy) &&&
      (0x7FFF#15 ++ 0#1 ++ 0x1F#5 ++ 0#3 ++ 7#3 ++ 0#1 ++ 0#1 ++ 0#1 ++ 0#1 ++ 0#1) = 0 := by
    simp only [BitVec.and_append, BitVec.zero_and, BitVec.and_zero]
    rfl
  exact hfields

end

/-- The bits above a field, in a mask of them, read 0 (10_state.md R35). -/
theorem setWidth_and_above {w : Nat} (x : BitVec w) : x.setWidth 32 &&& (BitVec.allOnes 32 <<< w) = 0 := by
  apply BitVec.eq_of_getLsbD_eq
  intro k hk
  by_cases h : k < w
  · simp [h]
  · simp [BitVec.getLsbD_of_ge x k (Nat.le_of_not_lt h)]

theorem readField_reserved {w : Nat} (l : Loc) (v : BitVec w) (s : State) : readField l v s &&& (BitVec.allOnes 32 <<< w) = 0 := by
  unfold readField
  split <;> exact setWidth_and_above _

end Sys2Proof.Machine

namespace Sys2Proof.Claims
open Sys2Proof.Machine

/-- Settles O41: both writes reach their register in every phase, and `writeStatus` and `writeIrqEn` say what they do. -/
theorem statusAndIrqEnWrites : Obligations.StatusAndIrqEnWrites :=
  ⟨fun _ _ _ hr hi => step_write hr hi (resolve_reg 0x004 .status rfl),
   fun _ _ _ hr hi => step_write hr hi (resolve_reg 0x024 .irqEn rfl)⟩

/-- Settles O44: a legal access reaches one target, which its offset and width fix, and an IDLE engine's reads draw nothing. -/
theorem readsWhileIdle : Obligations.ReadsWhileIdle := by
  intro s n off rest hr hp hi hl
  obtain ⟨g, hg⟩ := exists_resolve_of_legalAccess hl
  have hreg : ∀ r, regAt off.toNat = some r → readTarget g s = readReg r s := fun r h => by rw [resolve_eq_reg hg h]; rfl
  refine ⟨readTarget g s, step_read hr hi hg, ?_, ?_, ?_, ?_, ?_, ?_, ?_, ?_, ?_, ?_, ?_, ?_⟩
  · rintro rfl; exact hreg .cmd rfl
  · rintro rfl
    rw [hreg .status rfl, readReg, readStatus_idle hp, packStatus_toNat]
    simp
  · rintro rfl; exact (hreg .lfsr rfl).trans (readField_idle hp _ _)
  · rintro rfl; exact (hreg .ksbyte rfl).trans (readField_idle hp _ _)
  · rintro rfl; exact (hreg .edcAcc rfl).trans ((readField_idle hp _ _).trans (BitVec.setWidth_eq _))
  · rintro rfl; exact (hreg .edcOut rfl).trans ((readField_idle hp _ _).trans (BitVec.setWidth_eq _))
  · rintro rfl; exact (hreg .seed rfl).trans (readField_idle hp _ _)
  · rintro rfl; exact (hreg .ksLen rfl).trans (readField_idle hp _ _)
  · rintro rfl; exact (hreg .scanCount rfl).trans (readField_idle hp _ _)
  · rintro rfl
    rw [hreg .irqEn rfl, readReg]
    cases s.irqEn <;> rfl
  · rintro ha rfl
    obtain ⟨b, ⟨-, rfl⟩ | ⟨hn, -⟩⟩ := resolve_eq_buf hg ha
    · exact readTarget_byte_idle hp b _
    · cases hn
  · rintro ha rfl
    obtain ⟨b, ⟨hn, -⟩ | ⟨-, rfl⟩⟩ := resolve_eq_buf hg ha
    · cases hn
    · exact readTarget_lane_idle hp b _

/-- Settles O47: a field's read has no bit above the field, drawn or not, and STATUS is packed with zeros between its fields. -/
theorem reservedBitsReadZero : Obligations.ReservedBitsReadZero := fun s =>
  ⟨packStatus_reserved _ _ _ _ _ _ _, readField_reserved .lfsr s.lfsr s, readField_reserved .ksbyte s.ksbyte s,
   readField_reserved .seed s.seed s, readField_reserved .ksLen s.ksLen s, readField_reserved .scanCount s.scanCount s,
   by simp only [readReg]; cases s.irqEn <;> decide⟩

end Sys2Proof.Claims
end

section
/-! PROOF. Who writes each register, flag and buffer: a completion step writes its command's write set and the STATUS update, and a host
event none of the locations that write sets name (10_state.md R23 to R38; 20_memory.md R64). -/

namespace Sys2Proof.Machine
open Sys2Proof.Claims

/-! ### The OP of a command that may write a location -/

/-- The OP of a word is one of its command's row (30_encoding.md R87, R88). -/
theorem opOf_mem_ops (c : Word) : opOf c ∈ (decode c).ops := by
  have hop : (c.extractLsb' 28 4).toNat = opOf c := op_toNat c
  have hlt : opOf c < 16 := by rw [← hop]; exact (c.extractLsb' 28 4).isLt
  unfold decode
  rw [hop]
  generalize opOf c = op at hlt
  interval_cases op <;> simp [Instr.ops]

/-- The OP values of the commands whose write set names a location (20_memory.md R64). -/
def writerOps : Loc → List Nat
  | .lfsr => [0x1, 0x2, 0x3, 0x4]
  | .ksbyte => [0x3]
  | .edcAcc | .edcOut => [0x5, 0x6, 0x7, 0x8]
  | .seed | .seedValidFlag => [0x9, 0xA, 0xB]
  | .ksLen | .ksbuf => [0x4, 0x9, 0xA]
  | .scanCount => [0x9, 0xB]
  | .matchFlag => [0x7, 0x8, 0x9]
  | .outbitFlag => [0x2]
  | .outbuf => [0x8]

theorem ops_subset_writerOps (i : Instr) : ∀ l ∈ writeSet i, ∀ op ∈ i.ops, op ∈ writerOps l := by
  cases i <;> simp [writeSet, Instr.ops, writerOps]

theorem opOf_mem_writerOps {c : Word} {l : Loc} (h : l ∈ writeSet (decode c)) : opOf c ∈ writerOps l :=
  ops_subset_writerOps (decode c) l h _ (opOf_mem_ops c)

/-! ### What a location holds -/

/-- KSBUF holds the same bytes, written or not, when each of its addresses does. -/
theorem locValue_ksbuf_iff (s t : State) :
    locValue .ksbuf t = locValue .ksbuf s ↔ ∀ a, 0x2000 ≤ a → a < 0x2800 → t.mem.get a = s.mem.get a := by
  simp only [locValue, Prod.mk.injEq, and_true, List.map_inj_left, List.mem_range]
  constructor
  · intro h a h1 h2
    have := h (a - 0x2000) (by omega)
    rwa [Nat.add_sub_cancel' h1] at this
  · exact fun h i hi => h (0x2000 + i) (by omega) (by omega)

theorem locValue_outbuf_iff (s t : State) :
    locValue .outbuf t = locValue .outbuf s ↔ ∀ a, 0x3000 ≤ a → a < 0x3810 → t.mem.get a = s.mem.get a := by
  simp only [locValue, Prod.mk.injEq, and_true, List.map_inj_left, List.mem_range]
  constructor
  · intro h a h1 h2
    have := h (a - 0x3000) (by omega)
    rwa [Nat.add_sub_cancel' h1] at this
  · exact fun h i hi => h (0x3000 + i) (by omega) (by omega)

/-- A register field narrower than a word is fixed by the word it extends to. -/
theorem setWidth_word_inj {w : Nat} (hw : w ≤ 32) (x y : BitVec w) : x.setWidth 32 = y.setWidth 32 ↔ x = y := by
  refine ⟨fun h => ?_, fun h => by rw [h]⟩
  have := congrArg (BitVec.setWidth w) h
  rwa [BitVec.setWidth_setWidth_of_le _ hw, BitVec.setWidth_setWidth_of_le _ hw, BitVec.setWidth_eq, BitVec.setWidth_eq] at this

/-! ### What a completion step leaves unchanged -/

/-- A command's rule changes no buffer byte but those of the buffers in its write set. -/
theorem bodyOf_get {i : Instr} (hl : (i.wf || i.isReserved) = true) (s : State) {a : Nat}
    (hk : Loc.ksbuf ∈ writeSet i → ¬ (0x2000 ≤ a ∧ a < 0x2800))
    (ho : Loc.outbuf ∈ writeSet i → ¬ (0x3000 ≤ a ∧ a < 0x3810)) :
    (bodyOf i s).1.mem.get a = s.mem.get a := by
  have hseed : ∀ seed, Loc.ksbuf ∈ writeSet i → (acceptSeed seed s).mem.get a = s.mem.get a := fun seed hm =>
    get_setBlock_of_not_mem _ _ _ _ fun ⟨h1, h2⟩ => hk hm ⟨h1, by rw [cypher_length] at h2; exact h2⟩
  cases i with
  | genKs len seed15 seed =>
    obtain ⟨hle, -⟩ := (formatGLegal_iff len seed15).mp ((Bool.or_false _).symm.trans hl)
    refine get_setBlock_of_not_mem _ _ _ _ fun ⟨h1, h2⟩ => hk (by simp [writeSet]) ⟨h1, ?_⟩
    rw [cypher_length] at h2
    exact h2.trans_le (Nat.add_le_add_left hle _)
  | decodeSector mbz =>
    rw [bodyOf]
    by_cases hlen : s.ksLen.toNat = 2048
    · cases hm : decodeMatches Config.edc (secbuf s) (ksbuf s)
      · rw [decodeBody_mismatch _ s hlen hm]
      · rw [decodeBody_match _ s hlen hm]
        exact get_setBlock_of_not_mem _ _ _ _ fun ⟨h1, h2⟩ =>
          ho (by simp [writeSet]) ⟨h1, h2.trans_le (Nat.add_le_add_left (length_decoded_le _ _) _)⟩
    · rw [decodeBody_short _ s hlen]
  | search mbz =>
    rw [bodyOf]
    cases hv : s.seedValid
    · cases hf : searchFn Config.edc (secbuf s) with
      | none => rw [searchBody_notFound _ s hv hf]
      | some seed => rw [searchBody_found _ s seed hv hf]; exact hseed seed (by simp [writeSet])
    · rw [searchBody_inSession _ s hv]
  | setSeed mbz seed15 seed =>
    rw [bodyOf]
    cases hv : s.seedValid
    · rw [setSeedBody_accepts seed s hv]; exact hseed seed (by simp [writeSet])
    · rw [setSeedBody_inSession seed s hv]
  | nop mbz | lfsrLoad mbz seed15 seed | lfsrStep mbz | lfsrByte mbz | edcClear mbz | edcByte mbz byte
  | clearSession mbz | reserved low => rfl
  | edcSector mbz => rw [bodyOf, edcSectorBody]

/-- The fields EDC_SECTOR's rule may change (41_edc.md R138). -/
theorem edcSectorBody_fields (p : EdcParams) (s : State) : ∃ a b, (edcSectorBody p s).1 = { s with edcAcc := a, matched := b } :=
  ⟨_, _, rfl⟩

/-- The fields DECODE's rule may change (42_decode.md R161). -/
theorem decodeBody_fields (p : EdcParams) (s : State) :
    ∃ m a b, (decodeBody p s).1 = { s with mem := m, edcAcc := a, matched := b } := by
  by_cases hlen : s.ksLen.toNat = 2048
  · cases hm : decodeMatches p (secbuf s) (ksbuf s)
    · exact ⟨s.mem, _, _, by rw [decodeBody_mismatch p s hlen hm]⟩
    · exact ⟨_, _, _, by rw [decodeBody_match p s hlen hm]; rfl⟩
  · exact ⟨s.mem, s.edcAcc, s.matched, by rw [decodeBody_short p s hlen]⟩

/-- The fields SET_SEED's rule may change (43_search_session.md R186). -/
theorem setSeedBody_fields (seed : Seed) (s : State) :
    ∃ m k v n, (setSeedBody seed s).1 = { s with mem := m, seed := k, seedValid := v, ksLen := n } := by
  cases hv : s.seedValid
  · exact ⟨_, _, _, _, by rw [setSeedBody_accepts seed s hv]; rfl⟩
  · exact ⟨s.mem, s.seed, s.seedValid, s.ksLen, by rw [setSeedBody_inSession seed s hv]⟩

/-- The fields SEARCH's rule may change (43_search_session.md R182). -/
theorem searchBody_fields (p : EdcParams) (s : State) : ∃ m k v n b q,
    (searchBody p s).1 = { s with mem := m, seed := k, seedValid := v, ksLen := n, matched := b, scanCount := q } := by
  cases hv : s.seedValid
  · cases hf : searchFn p (secbuf s) with
    | none => exact ⟨s.mem, s.seed, s.seedValid, s.ksLen, _, _, by rw [searchBody_notFound p s hv hf]⟩
    | some seed => exact ⟨_, _, _, _, _, _, by rw [searchBody_found p s seed hv hf]; rfl⟩
  · exact ⟨s.mem, s.seed, s.seedValid, s.ksLen, s.matched, s.scanCount, by rw [searchBody_inSession p s hv]⟩

/-- A command's rule changes no location outside its write set (20_memory.md R64). -/
theorem bodyOf_locValue {i : Instr} (hl : (i.wf || i.isReserved) = true) (s : State) {l : Loc} (h : l ∉ writeSet i) :
    locValue l (bodyOf i s).1 = locValue l s := by
  by_cases hb : l = .ksbuf ∨ l = .outbuf
  · rcases hb with rfl | rfl
    · exact (locValue_ksbuf_iff _ _).mpr fun a h1 h2 => bodyOf_get hl s (fun hm => absurd hm h) (fun _ => by omega)
    · exact (locValue_outbuf_iff _ _).mpr fun a h1 h2 => bodyOf_get hl s (fun _ => by omega) (fun hm => absurd hm h)
  · cases i with
    | decodeSector mbz =>
      obtain ⟨m, a, b, e⟩ := decodeBody_fields Config.edc s
      rw [bodyOf, e]
      cases l <;> simp [writeSet] at h hb <;> rfl
    | search mbz =>
      obtain ⟨m, k, v, n, b, q, e⟩ := searchBody_fields Config.edc s
      rw [bodyOf, e]
      cases l <;> simp [writeSet] at h hb <;> rfl
    | setSeed mbz seed15 seed =>
      obtain ⟨m, k, v, n, e⟩ := setSeedBody_fields seed s
      rw [bodyOf, e]
      cases l <;> simp [writeSet] at h hb <;> rfl
    | edcSector mbz =>
      obtain ⟨a, b, e⟩ := edcSectorBody_fields Config.edc s
      rw [bodyOf, e]
      cases l <;> simp [writeSet] at h hb <;> rfl
    | nop mbz | lfsrLoad mbz seed15 seed | lfsrStep mbz | lfsrByte mbz | genKs len seed15 seed | edcClear mbz | edcByte mbz byte
    | clearSession mbz | reserved low =>
      cases l <;> simp [writeSet] at h hb <;> rfl

/-- A completion step changes no location outside the command's write set. -/
theorem completedState_locValue (i : Instr) (s : State) {l : Loc} (h : l ∉ writeSet i) :
    locValue l (completedState i s) = locValue l s := by
  rcases completedState_cases i s with ⟨hl, e⟩ | e <;> rw [e]
  · exact Eq.trans (by cases l <;> rfl) (bodyOf_locValue hl s h)
  · cases l <;> rfl

/-- A completion step changes no byte outside KSBUF and OUTBUF. -/
theorem completedState_get (i : Instr) (s : State) {a : Nat} (hk : ¬ (0x2000 ≤ a ∧ a < 0x2800))
    (ho : ¬ (0x3000 ≤ a ∧ a < 0x3810)) :
    (completedState i s).mem.get a = s.mem.get a := by
  rcases completedState_cases i s with ⟨hl, e⟩ | e <;> rw [e]
  · exact bodyOf_get hl s (fun _ => hk) (fun _ => ho)
  · rfl

/-! ### Who writes -/

/-- The engine's turn with a word latched is that word's completion step (60_exceptions.md R213). -/
theorem completes_completedState {s : State} {c : Word} {ins : List Event} (hr : s.rst = false) (hp : s.phase = .busy c)
    (hi : (s.inputs = [] ∧ ins = []) ∨ s.inputs = .engine :: ins) :
    completes c s (completedState (decode c) { s with inputs := ins }) :=
  ⟨hr, hp, hi.imp And.left fun h => ⟨ins, h⟩, completedState_phase _ _, completedState_done _ _⟩

/-- A flag under a write-1-to-clear bit changes only by that bit, to 0 (10_state.md R26). -/
theorem clear_of_ne {d b : Bool} (h : (d && !b) ≠ d) : b = true ∧ ¬ (d && !b) = true := by
  revert d b
  decide

section
variable {s t : State} (hs : ReleasedStep s t)
include hs

/-- A location that write sets name is changed only by the completion of a command whose write set names it. -/
theorem completesOneOf_of_locValue_ne (hr : s.rst = false) {l : Loc} (hne : locValue l t ≠ locValue l s) :
    completesOneOf (writerOps l) s t := by
  cases hs with
  | complete c ins hp hi =>
    refine ⟨c, completes_completedState hr hp hi, opOf_mem_writerOps (not_imp_comm.mp (fun h => ?_) hne)⟩
    exact (completedState_locValue (decode c) { s with inputs := ins } h).trans (by cases l <;> rfl)
  | store n off v bs rest hp hi hl h1 h2 =>
    have hget : ∀ a, 0x2000 ≤ a → (s.mem.setBlock off.toNat bs).get a = s.mem.get a := fun a ha =>
      get_setBlock_of_not_mem _ _ _ _ (by omega)
    refine absurd ?_ hne
    cases l with
    | ksbuf => exact (locValue_ksbuf_iff _ _).mpr fun a ha _ => hget a ha
    | outbuf => exact (locValue_outbuf_iff _ _).mpr fun a ha _ => hget a (by omega)
    | _ => rfl
  | quiet | raise | issue | status | irqEn | drop => exact absurd (by cases l <;> rfl) hne

/-- A register field is changed only by the completion of a command whose write set names it. -/
theorem completesOneOf_of_field_ne (hr : s.rst = false) {w : Nat} (l : Loc) (hw : w ≤ 32) (f : State → BitVec w)
    (hf : ∀ u, locValue l u = ([], (f u).setWidth 32, false)) (hne : f t ≠ f s) : completesOneOf (writerOps l) s t :=
  completesOneOf_of_locValue_ne hs hr fun h => hne <| by
    rw [hf, hf] at h
    exact (setWidth_word_inj hw _ _).mp (congrArg (fun x => x.2.1) h)

/-- A flag is changed only by the completion of a command whose write set names it. -/
theorem completesOneOf_of_flag_ne (hr : s.rst = false) (l : Loc) (f : State → Bool)
    (hf : ∀ u, locValue l u = ([], 0, f u)) (hne : f t ≠ f s) : completesOneOf (writerOps l) s t :=
  completesOneOf_of_locValue_ne hs hr fun h => hne <| by
    rw [hf, hf] at h
    exact congrArg (fun x => x.2.2) h

/-- ERR is changed by completions alone (10_state.md R26). -/
theorem completes_of_err_ne (hr : s.rst = false) (hne : t.err ≠ s.err) : ∃ c, completes c s t := by
  cases hs with
  | complete c ins hp hi => exact ⟨c, completes_completedState hr hp hi⟩
  | quiet | raise | issue | status | irqEn | store | drop => exact absurd rfl hne

/-- CMD is changed by the host's CMD write while IDLE alone (10_state.md R25). -/
theorem cmdWrite_of_cmd_ne (hne : t.cmd ≠ s.cmd) : s.phase = .idle ∧ hostWrites 4 0x000 t.cmd s := by
  cases hs with
  | issue c rest hp hi => exact ⟨hp, rest, hi⟩
  | complete => exact absurd (completedState_cmd _ _) hne
  | quiet | raise | status | irqEn | store | drop => exact absurd rfl hne

/-- The phase is changed by completions and the host's CMD write while IDLE (10_state.md R23). -/
theorem writer_of_phase_ne (hr : s.rst = false) (hne : t.phase ≠ s.phase) :
    (∃ c, completes c s t) ∨ (s.phase = .idle ∧ ∃ c, hostWrites 4 0x000 c s ∧ t.phase = .busy c) := by
  cases hs with
  | complete c ins hp hi => exact .inl ⟨c, completes_completedState hr hp hi⟩
  | issue c rest hp hi => exact .inr ⟨hp, c, ⟨rest, hi⟩, rfl⟩
  | quiet | raise | status | irqEn | store | drop => exact absurd rfl hne

/-- DONE is set by completions, and cleared by the host's CMD write while IDLE and its STATUS write (10_state.md R26). -/
theorem writer_of_done_ne (hr : s.rst = false) (hne : t.done ≠ s.done) :
    if t.done = true then ∃ c, completes c s t
    else (s.phase = .idle ∧ ∃ c, hostWrites 4 0x000 c s) ∨ ∃ v, hostWrites 4 0x004 v s ∧ v.getLsbD 1 = true := by
  cases hs with
  | complete c ins hp hi =>
    rw [if_pos (completedState_done _ _)]
    exact ⟨c, completes_completedState hr hp hi⟩
  | issue c rest hp hi => exact .inl ⟨hp, c, rest, hi⟩
  | status v rest hi =>
    obtain ⟨hv, ht⟩ := clear_of_ne hne
    exact (if_neg ht).mpr (.inr ⟨v, ⟨rest, hi⟩, hv⟩)
  | quiet | raise | irqEn | store | drop => exact absurd rfl hne

/-- OVERRUN is set by a dropped write, and cleared by the host's STATUS write (10_state.md R26, 60_exceptions.md R214). -/
theorem writer_of_overrun_ne (hne : t.overrun ≠ s.overrun) :
    if t.overrun = true
    then (∃ c, s.phase = .busy c) ∧ ∃ n off v, hostWrites n off v s ∧ (off = 0x000 ∨ inSecbuf (BitVec.toNat off))
    else ∃ v, hostWrites 4 0x004 v s ∧ v.getLsbD 16 = true := by
  cases hs with
  | drop c n off v rest hp hi ho => exact ⟨⟨c, hp⟩, n, off, v, ⟨rest, hi⟩, ho⟩
  | status v rest hi =>
    obtain ⟨hv, ht⟩ := clear_of_ne hne
    exact (if_neg ht).mpr ⟨v, ⟨rest, hi⟩, hv⟩
  | complete => exact absurd (completedState_overrun _ _) hne
  | quiet | raise | issue | irqEn | store => exact absurd rfl hne

/-- IRQ_EN is changed by the host's IRQ_EN write alone (10_state.md R34). -/
theorem irqEnWrite_of_irqEn_ne (hne : t.irqEn ≠ s.irqEn) : ∃ v, hostWrites 4 0x024 v s ∧ t.irqEn = v.getLsbD 0 := by
  cases hs with
  | irqEn v rest hi => exact ⟨v, ⟨rest, hi⟩, rfl⟩
  | complete => exact absurd (completedState_irqEn _ _) hne
  | quiet | raise | issue | status | store | drop => exact absurd rfl hne

/-- RST is raised by its own event alone (70_reset_and_hazards.md R240). -/
theorem raise_of_rst (hr : s.rst = false) (ht : t.rst = true) : ∃ rest, s.inputs = .rst true :: rest := by
  cases hs with
  | raise rest hi => exact ⟨rest, hi⟩
  | complete c ins => cases hr.symm.trans ((completedState_rst (decode c) { s with inputs := ins }).symm.trans ht)
  | quiet | issue | status | irqEn | store | drop => cases hr.symm.trans ht

/-- A buffer byte is changed by the completion of a command whose write set names its buffer, or, in SECBUF, by the host's write to it
while IDLE (10_state.md R36 to R38). -/
theorem writer_of_get_ne (hr : s.rst = false) {a : Nat} (hne : t.mem.get a ≠ s.mem.get a) :
    (0x2000 ≤ a ∧ a < 0x2800 ∧ completesOneOf (writerOps .ksbuf) s t) ∨
    (0x3000 ≤ a ∧ a < 0x3810 ∧ completesOneOf (writerOps .outbuf) s t) ∨
    (inSecbuf a ∧ s.phase = .idle ∧ ∃ n off v, hostWrites n off v s ∧ BitVec.toNat off ≤ a ∧ a < BitVec.toNat off + n) := by
  by_cases hk : 0x2000 ≤ a ∧ a < 0x2800
  · exact .inl ⟨hk.1, hk.2, completesOneOf_of_locValue_ne hs hr fun h => hne ((locValue_ksbuf_iff s t).mp h a hk.1 hk.2)⟩
  by_cases ho : 0x3000 ≤ a ∧ a < 0x3810
  · exact .inr (.inl ⟨ho.1, ho.2, completesOneOf_of_locValue_ne hs hr fun h => hne ((locValue_outbuf_iff s t).mp h a ho.1 ho.2)⟩)
  cases hs with
  | complete c ins => exact absurd (completedState_get (decode c) { s with inputs := ins } hk ho) hne
  | store n off v bs rest hp hi hl h1 h2 =>
    obtain ⟨hle, hlt⟩ : off.toNat ≤ a ∧ a < off.toNat + bs.length :=
      not_imp_comm.mp (get_setBlock_of_not_mem s.mem off.toNat bs a) hne
    rw [hl] at hlt
    exact .inr (.inr ⟨⟨h1.trans hle, hlt.trans_le h2⟩, hp, n, off, v, ⟨rest, hi⟩, hle, hlt⟩)
  | quiet | raise | issue | status | irqEn | drop => exact absurd rfl hne

end

end Sys2Proof.Machine

namespace Sys2Proof.Claims
open Sys2Proof.Machine

/-- Settles O57: location by location, over the cases of a step with RST released; under RST by `step_underReset`. -/
theorem whoWritesEachLocation : Obligations.WhoWritesEachLocation := by
  refine ⟨fun s t hr h => ?_, fun s t hr h => step_underReset hr h⟩
  have hs := step_released hr h
  exact ⟨completesOneOf_of_field_ne hs hr .lfsr (by decide) State.lfsr fun _ => rfl,
    completesOneOf_of_field_ne hs hr .ksbyte (by decide) State.ksbyte fun _ => rfl,
    completesOneOf_of_field_ne hs hr .edcAcc (by decide) State.edcAcc fun u => by rw [BitVec.setWidth_eq]; rfl,
    completesOneOf_of_field_ne hs hr .seed (by decide) State.seed fun _ => rfl,
    completesOneOf_of_field_ne hs hr .ksLen (by decide) State.ksLen fun _ => rfl,
    completesOneOf_of_field_ne hs hr .scanCount (by decide) State.scanCount fun _ => rfl,
    completesOneOf_of_flag_ne hs hr .matchFlag State.matched fun _ => rfl,
    completesOneOf_of_flag_ne hs hr .outbitFlag State.outbit fun _ => rfl,
    completesOneOf_of_flag_ne hs hr .seedValidFlag State.seedValid fun _ => rfl,
    completes_of_err_ne hs hr, cmdWrite_of_cmd_ne hs, writer_of_phase_ne hs hr, writer_of_done_ne hs hr, writer_of_overrun_ne hs,
    irqEnWrite_of_irqEn_ne hs, raise_of_rst hs hr, fun _ => writer_of_get_ne hs hr⟩

end Sys2Proof.Claims
end

section
/-! PROOF. The sample and the write sets: what a step leaves alone while a command runs, and which commands write where
(20_memory.md R63, R64, R68). -/

namespace Sys2Proof.Claims
open Sys2Proof.Machine

/-- Settles O56: while BUSY a step with RST released completes the command or writes neither memory, CMD nor the phase; under RST
only the release does, and it empties the buffers. -/
theorem sampleIsImmutableWhileBusy : Obligations.SampleIsImmutableWhileBusy := by
  intro s t c hp h
  cases hr : s.rst with
  | false =>
    cases step_released hr h with
    | complete c' ins hc hi =>
      exact .inr (.inl ⟨rfl, completedState_phase _ _, completedState_done _ _, completedState_cmd _ _,
        fun a _ hlt => completedState_get _ _ (by omega) (by omega)⟩)
    | issue _ _ hidle => cases hp.symm.trans hidle
    | store _ _ _ _ _ hidle => cases hp.symm.trans hidle
    | quiet | raise | status | irqEn | drop => exact .inl ⟨hp, rfl, rfl⟩
  | true =>
    rcases step_underReset hr h with e | ⟨rest, -, rfl⟩
    · rw [e]; exact .inl ⟨hp, rfl, rfl⟩
    · exact .inr (.inr ⟨rfl, releaseReset_phase _, releaseReset_done _, releaseReset_mem _⟩)

/-- Settles O20: a command completes in `completedState`, which keeps each location outside the write set. -/
theorem commandsWriteOnlyTheirWriteSet : Obligations.CommandsWriteOnlyTheirWriteSet := by
  intro i s t h l hl
  rw [exec_eq_next] at h
  cases h
  exact completedState_locValue i s hl

end Sys2Proof.Claims
end

section
/-! PROOF. Host writes to the buffers and the read-only registers, and which accesses are bus errors (20_memory.md R52 to R58,
R63). -/

namespace Sys2Proof.Machine
open Sys2Proof.Claims

/-! ### What a write stores -/

/-- The n lowest lanes of a write's word, lowest address first (20_memory.md R52). -/
def writeLanes (n : Nat) (v : Word) : List Byte := (List.range n).map fun k => v.extractLsb' (8 * k) 8

@[simp] theorem length_writeLanes (n : Nat) (v : Word) : (writeLanes n v).length = n := by simp [writeLanes]

/-- A legal write to SECBUF is a write of its lanes (20_memory.md R52, R54). -/
theorem exists_resolve_secbuf {n : Nat} {off : Offset} (h1 : 0x1000 ≤ off.toNat) (h2 : off.toNat < 0x1810)
    (hn : n = 1 ∨ (n = 4 ∧ off.toNat % 4 = 0)) :
    ∃ g, resolve n off = .ok g ∧ ∀ v s, writeTarget g v s = writeSecbuf off.toNat (writeLanes n v) s := by
  have hb := region_sec off.toNat h1 h2
  rcases hn with rfl | ⟨rfl, h4⟩
  · refine ⟨_, resolve_byte off .sec hb, fun v s => ?_⟩
    rw [writeTarget, BitVec.setWidth_eq_extractLsb' (by decide)]
    rfl
  · exact ⟨_, resolve_word off .sec hb h4, fun _ _ => rfl⟩

theorem writeSecbuf_idle {s : State} (hp : s.phase = .idle) (a : Nat) (bs : List Byte) : writeSecbuf a bs s = storeBytes a bs s := by
  rw [writeSecbuf, hp]

theorem writeSecbuf_busy {s : State} {c : Word} (hp : s.phase = .busy c) (a : Nat) (bs : List Byte) :
    writeSecbuf a bs s = { s with overrun := true } := by
  rw [writeSecbuf, hp]

/-- Lane k of a write lands at the k-th address. -/
theorem get_setBlock_writeLanes (m : Memory) (a : Nat) (v : Word) {n k : Nat} (hk : k < n) :
    (m.setBlock a (writeLanes n v)).get (a + k) = some (v.extractLsb' (8 * k) 8) := by
  rw [get_setBlock_of_mem m a _ k (by simpa using hk)]
  simp [writeLanes]

/-! ### Writes that are ignored -/

theorem writeTarget_readOnlyBuf {b : Buf} (hsec : b ≠ .sec) (a : Nat) (v : Word) (s : State) :
    writeTarget (.byte b a) v s = s ∧ writeTarget (.word b a) v s = s := by
  cases b with
  | sec => exact absurd rfl hsec
  | ks | out => exact ⟨rfl, rfl⟩

/-- A write to KSBUF or OUTBUF reaches a target that ignores it (20_memory.md R56). -/
theorem exists_resolve_readOnlyBuf {n : Nat} {off : Offset} {b : Buf} (hb : region off.toNat = .buf b) (hsec : b ≠ .sec)
    (hn : n = 1 ∨ (n = 4 ∧ off.toNat % 4 = 0)) :
    ∃ g, resolve n off = .ok g ∧ ∀ v s, writeTarget g v s = s := by
  rcases hn with rfl | ⟨rfl, h4⟩
  · exact ⟨_, resolve_byte off b hb, fun v s => (writeTarget_readOnlyBuf hsec _ v s).1⟩
  · exact ⟨_, resolve_word off b hb h4, fun v s => (writeTarget_readOnlyBuf hsec _ v s).2⟩

/-- A write to a read-only register reaches a target that ignores it (20_memory.md R56). -/
theorem exists_resolve_readOnlyReg {off : Offset} (ho : off.toNat ∈ [0x008, 0x00C, 0x010, 0x014, 0x018, 0x01C, 0x020]) :
    ∃ g, resolve 4 off = .ok g ∧ ∀ v s, writeTarget g v s = s := by
  obtain ⟨r, hr, hw⟩ : ∃ r, regAt off.toNat = some r ∧ ∀ v s, writeReg r v s = s := by
    simp only [List.mem_cons, List.not_mem_nil, or_false] at ho
    rcases ho with e | e | e | e | e | e | e <;> rw [e] <;> exact ⟨_, rfl, fun _ _ => rfl⟩
  exact ⟨.reg r, resolve_reg off r hr, hw⟩

/-! ### Which accesses are bus errors -/

theorem regAt_aligned {a : Nat} {r : Reg} (h : regAt a = some r) : a % 4 = 0 := by
  rw [regAt_eq a r h]
  cases r <;> simp only [Nat.reduceMod]

/-- An access reaches something exactly when 20_memory.md R54 lists it. -/
theorem legalAccess_iff_resolve {n : Nat} {off : Offset} : legalAccess n off.toNat ↔ ∃ g, resolve n off = .ok g := by
  refine ⟨exists_resolve_of_legalAccess, fun ⟨g, hg⟩ => ?_⟩
  have hbuf : ∀ b, region off.toNat = .buf b → (0x1000 ≤ off.toNat ∧ off.toNat < 0x1810) ∨
      (0x2000 ≤ off.toNat ∧ off.toNat < 0x2800) ∨ (0x3000 ≤ off.toNat ∧ off.toNat < 0x3810) := by
    intro b hb
    rcases region_cases off.toNat with ⟨e, -⟩ | ⟨-, h⟩ | ⟨-, h⟩ | ⟨-, h⟩ | e
    · cases hb.symm.trans e
    · exact .inl h
    · exact .inr (.inl h)
    · exact .inr (.inr h)
    · cases hb.symm.trans e
  rcases resolve_ok n off g hg with ⟨r, -, rfl, hr⟩ | ⟨b, -, rfl, hb⟩ | ⟨b, -, rfl, h4, hb⟩
  · exact .inl ⟨regAt_lt hr, rfl, regAt_aligned hr⟩
  · exact .inr ⟨hbuf b hb, .inl rfl⟩
  · exact .inr ⟨hbuf b hb, .inr ⟨rfl, h4⟩⟩

section
variable {s : State} {n : Nat} {off : Offset} {v : Word} {rest : List Event} (hr : s.rst = false)
  (hi : s.inputs = .read n off :: rest ∨ s.inputs = .write n off v :: rest)
include hr hi

/-- A legal access with RST released has a next state. -/
theorem exists_step_of_legalAccess (hl : legalAccess n off.toNat) : ∃ t, step s = .next t := by
  obtain ⟨g, hg⟩ := exists_resolve_of_legalAccess hl
  rcases hi with hi | hi
  · exact ⟨_, step_read hr hi hg⟩
  · exact ⟨_, step_write hr hi hg⟩

/-- Any other access is a bus error (20_memory.md R58). -/
theorem step_busError (hl : ¬ legalAccess n off.toNat) : ∃ why, step s = .fault (.busError why) := by
  cases hg : resolve n off with
  | ok g => exact absurd (legalAccess_iff_resolve.mpr ⟨g, hg⟩) hl
  | error why =>
    refine ⟨why, ?_⟩
    rcases hi with hi | hi
    · rw [step_event hi, perform, if_neg (ne_true_of_eq_false hr), hostRead, hg]
    · rw [step_event hi, perform, if_neg (ne_true_of_eq_false hr), hostWrite, hg]

end

theorem exists_engineTurn (s : State) : ∃ t, engineTurn s = .next t := by
  rcases engineTurn_cases s with e | ⟨-, c, -, e⟩ <;> exact ⟨_, e⟩

/-- A step has a next state unless it takes a host access with RST released: the engine's turn, a level of RST and an access under RST
never stop. -/
theorem exists_step_or_access (s : State) : (∃ t, step s = .next t) ∨
    (s.rst = false ∧ ∃ n off v rest, s.inputs = .read n off :: rest ∨ s.inputs = .write n off v :: rest) := by
  cases hi : s.inputs with
  | nil =>
    rw [step, nextEvent, hi]
    exact .inl (exists_engineTurn s)
  | cons e rest =>
    rw [step_event hi]
    cases e with
    | read n off =>
      cases s.rst with
      | false => exact .inr ⟨rfl, n, off, 0, rest, .inl rfl⟩
      | true => exact .inl ⟨_, rfl⟩
    | write n off v =>
      cases s.rst with
      | false => exact .inr ⟨rfl, n, off, v, rest, .inr rfl⟩
      | true => exact .inl ⟨_, rfl⟩
    | engine => exact .inl (exists_engineTurn _)
    | rst level =>
      cases level with
      | false => rw [perform]; split <;> exact .inl ⟨_, rfl⟩
      | true => exact .inl ⟨_, rfl⟩

end Sys2Proof.Machine

namespace Sys2Proof.Claims
open Sys2Proof.Machine

/-- Settles O39: a SECBUF write is a write of its lanes, stored or dropped by the phase. -/
theorem secbufWrites : Obligations.SecbufWrites := by
  intro s n off v rest hr hi h1 h2 hn
  obtain ⟨g, hg, hw⟩ := exists_resolve_secbuf h1 h2 hn
  have hstep := step_write hr hi hg
  rw [hw] at hstep
  refine ⟨fun hp => ?_, fun w hp => ?_⟩
  · rw [writeSecbuf_idle (by exact hp)] at hstep
    exact ⟨_, hstep, rfl, fun k hk => get_setBlock_writeLanes s.mem _ v hk,
      fun a ha => get_setBlock_of_not_mem s.mem _ _ a (by rwa [length_writeLanes])⟩
  · rw [writeSecbuf_busy (by exact hp)] at hstep
    exact hstep

/-- Settles O40: the target such a write reaches ignores it, whatever the phase. -/
theorem ignoredWrites : Obligations.IgnoredWrites := by
  intro s n off v rest hr hi ho
  obtain ⟨g, hg, hw⟩ : ∃ g, resolve n off = .ok g ∧ ∀ v s, writeTarget g v s = s := by
    rcases ho with ⟨rfl, hreg⟩ | ⟨⟨h1, h2⟩ | ⟨h1, h2⟩, hn⟩
    · exact exists_resolve_readOnlyReg hreg
    · exact exists_resolve_readOnlyBuf (region_ks _ h1 h2) (by decide) hn
    · exact exists_resolve_readOnlyBuf (region_out _ h1 h2) (by decide) hn
  rw [step_write hr hi hg, hw]

/-- Settles O42: the window resolves exactly the legal accesses. -/
theorem busErrorsExactly : Obligations.BusErrorsExactly := fun _ _ _ _ _ hr hi =>
  ⟨exists_step_of_legalAccess hr hi, step_busError hr hi⟩

/-- Settles O43: nothing but an access with RST released can stop the machine, and it stops only if it is not legal. -/
theorem onlyBusErrorsStop : Obligations.OnlyBusErrorsStop := by
  intro s
  rcases exists_step_or_access s with h | ⟨hr, n, off, v, rest, hi⟩
  · exact .inl h
  · by_cases hl : legalAccess n off.toNat
    · exact .inl (exists_step_of_legalAccess hr hi hl)
    · obtain ⟨why, hs⟩ := step_busError hr hi hl
      exact .inr ⟨hr, why, n, off, v, rest, hs, hl, hi⟩

end Sys2Proof.Claims
end

section
/-! PROOF. What reads return while a command runs, that they have no side effect, and the byte order of the trailing checksum
(20_memory.md R53, R59, R62 to R65). -/

namespace Sys2Proof.Machine
open Sys2Proof.Claims

/-! ### The lanes of a 32-bit read -/

theorem le32_inj {a b c d a' b' c' d' : Byte} : le32 a b c d = le32 a' b' c' d' ↔ a = a' ∧ b = b' ∧ c = c' ∧ d = d' := by
  refine ⟨fun h => ?_, fun ⟨ha, hb, hc, hd⟩ => by rw [ha, hb, hc, hd]⟩
  obtain ⟨h0, h1, h2, h3⟩ := le32_lane a b c d
  obtain ⟨h0', h1', h2', h3'⟩ := le32_lane a' b' c' d'
  rw [h] at h0 h1 h2 h3
  exact ⟨h0.symm.trans h0', h1.symm.trans h1', h2.symm.trans h2', h3.symm.trans h3'⟩

/-- Lane k of the four bytes at an offset is the byte at offset k (20_memory.md R52): the same state IDLE reads them as one word. -/
theorem le32_byteAt_lane (s : State) (a : Nat) {k : Nat} (hk : k < 4) :
    (le32 (byteAt s a) (byteAt s (a + 1)) (byteAt s (a + 2)) (byteAt s (a + 3))).extractLsb' (8 * k) 8 = byteAt s (a + k) :=
  readTarget_lane_idle (s := { s with phase := .idle }) rfl .sec a k hk

/-- The trailing checksum is the word whose lanes are its bytes in the opposite order (20_memory.md R52, R53). -/
theorem trailerValue_eq_le32 (s : State) :
    trailerValue s = le32 (byteAt s 0x180F) (byteAt s 0x180E) (byteAt s 0x180D) (byteAt s 0x180C) := by
  rw [le32, ← BitVec.setWidth_eq (byteAt s 0x180C ++ _ ++ _ ++ _),
    BitVec.setWidth_append_append_append_eq_shiftLeft_setWidth_or]
  rfl

/-! ### Reads while the engine is BUSY -/

/-- The running command may write the buffer an offset lies in (20_memory.md R64): KSBUF stands at 0x2000, OUTBUF at 0x3000. -/
def inWriteSet (i : Instr) (a : Nat) : Prop :=
  (a / 0x1000 = 2 ∧ Loc.ksbuf ∈ writeSet i) ∨ (a / 0x1000 = 3 ∧ Loc.outbuf ∈ writeSet i)

section
variable {s : State} {c : Word} (hp : s.phase = .busy c)
include hp

theorem busySet_busy : busySet s = writeSet (decode c) := by unfold busySet; rw [hp]

/-- A field of the write set reads as the low bits of the draw, any other as its value (20_memory.md R62). -/
theorem readField_busy {w : Nat} (hw : w ≤ 32) (l : Loc) (v : BitVec w) : readField l v s =
    (if l ∈ writeSet (decode c) then (Config.draw s.draws).extractLsb' 0 w else v).setWidth 32 := by
  rw [readField, busySet_busy hp, apply_ite (BitVec.setWidth 32), ← BitVec.setWidth_eq_extractLsb' hw]
  rfl

theorem readField_word_busy (l : Loc) (v : Word) :
    readField l v s = if l ∈ writeSet (decode c) then Config.draw s.draws else v := by
  rw [readField_busy hp (Nat.le_refl 32), BitVec.setWidth_eq, extract_whole]

theorem readFlag_busy (l : Loc) (k : Nat) (v : Bool) :
    readFlag l k v s = if l ∈ writeSet (decode c) then (Config.draw s.draws).getLsbD k else v := by
  rw [readFlag, busySet_busy hp]; rfl

theorem readStatus_busy : readStatus s = packStatus true false (readFlag .matchFlag 2 s.matched s)
    (readFlag .outbitFlag 3 s.outbit s) (readFlag .seedValidFlag 4 s.seedValid s) ((Config.draw s.draws).extractLsb' 8 3)
    s.overrun := by
  rw [readStatus, isBusy_busy c s hp]; rfl

/-- A buffer read is a draw exactly when the running command may write the buffer (20_memory.md R62). -/
theorem bufBusy_iff {b : Buf} {a : Nat} (hb : region a = .buf b) : bufBusy b s = true ↔ inWriteSet (decode c) a := by
  rcases region_cases a with ⟨e, -⟩ | ⟨e, h1, h2⟩ | ⟨e, h1, h2⟩ | ⟨e, h1, h2⟩ | e <;> cases hb.symm.trans e
  · have : a / 0x1000 = 1 := by omega
    simp [bufBusy, inWriteSet, this]
  · have : a / 0x1000 = 2 := by omega
    simp [bufBusy, inWriteSet, this, busySet_busy hp]
  · have : a / 0x1000 = 3 := by omega
    simp [bufBusy, inWriteSet, this, busySet_busy hp]

end

/-- Above the registers a legal access reaches a byte or a word of the buffer its offset lies in (20_memory.md R51, R54). -/
theorem resolve_buf_region {n : Nat} {off : Offset} {g : Target} (hg : resolve n off = .ok g) (h : 0x1000 ≤ off.toNat) :
    ∃ b, region off.toNat = .buf b ∧ ((n = 1 ∧ g = .byte b off.toNat) ∨ (n = 4 ∧ g = .word b off.toNat)) := by
  rcases resolve_ok n off g hg with ⟨r, -, -, hr⟩ | ⟨b, rfl, hn, hb⟩ | ⟨b, rfl, hn, -, hb⟩
  · have hlt := regAt_lt hr
    omega
  · exact ⟨b, hb, .inl ⟨hn, rfl⟩⟩
  · exact ⟨b, hb, .inr ⟨hn, rfl⟩⟩

/-! ### Two reads in a row -/

/-- A read that gives a next state is legal, and is answered. -/
theorem step_read_next {s t : State} {n : Nat} {off : Offset} {rest : List Event} (hr : s.rst = false)
    (hi : s.inputs = .read n off :: rest) (h : step s = .next t) : ∃ g, resolve n off = .ok g ∧
      t = { s with inputs := rest, reply := .data (readTarget g s), draws := s.draws + 1 } := by
  rw [step_event hi, perform, if_neg (ne_true_of_eq_false hr)] at h
  obtain ⟨g, hg, rfl⟩ := hostRead_next n off _ t h
  exact ⟨g, hg, by rw [readTarget_inputs]⟩

/-- A written byte reads the same whatever the draws (70_reset_and_hazards.md R241). -/
theorem byteAt_of_isSome {s t : State} {a : Nat} (hm : t.mem = s.mem) (h : (s.mem.get a).isSome = true) :
    byteAt t a = byteAt s a := by
  obtain ⟨b, hb⟩ := Option.isSome_iff_exists.mp h
  rw [byteAt_of_get s a b hb, byteAt_of_get t a b (by rw [hm, hb])]

section
variable {s : State} (hp : s.phase = .idle) (ins : List Event) (r : Reply) (d : Nat)
include hp

/-- A register reads the same whatever the draws, the engine being IDLE (20_memory.md R59). -/
theorem readReg_idle_stable (x : Reg) : readReg x { s with inputs := ins, reply := r, draws := d } = readReg x s := by
  have hp' : ({ s with inputs := ins, reply := r, draws := d } : State).phase = .idle := hp
  cases x with
  | cmd | irqEn => rfl
  | status => exact (readStatus_idle hp').trans (readStatus_idle hp).symm
  | lfsr | ksbyte | edcAcc | edcOut | seed | ksLen | scanCount =>
    exact (readField_idle hp' _ _).trans (readField_idle hp _ _).symm

/-- A legal read of a register or of written bytes reads the same whatever the draws, the engine being IDLE. -/
theorem readTarget_idle_stable {n : Nat} {off : Offset} {g : Target} (hg : resolve n off = .ok g)
    (hw : off.toNat < 0x28 ∨ ∀ k, k < n → (s.mem.get (off.toNat + k)).isSome = true) :
    readTarget g { s with inputs := ins, reply := r, draws := d } = readTarget g s := by
  have hp' : ({ s with inputs := ins, reply := r, draws := d } : State).phase = .idle := hp
  have hbyte : ∀ b, region off.toNat = .buf b → ∀ k, k < n →
      byteAt { s with inputs := ins, reply := r, draws := d } (off.toNat + k) = byteAt s (off.toNat + k) := by
    intro b hb k hk
    rcases hw with hlt | hw
    · have hregs : region off.toNat = .regs := if_pos hlt
      cases hb.symm.trans hregs
    · exact byteAt_of_isSome rfl (hw k hk)
  rcases resolve_ok n off g hg with ⟨x, rfl, -, -⟩ | ⟨b, rfl, rfl, hb⟩ | ⟨b, rfl, rfl, -, hb⟩
  · exact readReg_idle_stable hp ins r d x
  · rw [readTarget_byte_idle hp', readTarget_byte_idle hp]
    exact congrArg _ (hbyte b hb 0 (by decide))
  · rw [readTarget_word_idle hp', readTarget_word_idle hp, le32_inj]
    exact ⟨hbyte b hb 0 (by decide), hbyte b hb 1 (by decide), hbyte b hb 2 (by decide), hbyte b hb 3 (by decide)⟩

end

/-! ### Issue, completion and the STATUS read -/

/-- The host's CMD write is latched by an IDLE engine (30_encoding.md R80). -/
theorem step_issue {s : State} {c : Word} {rest : List Event} (hr : s.rst = false) (hp : s.phase = .idle)
    (hi : s.inputs = .write 4 0x000 c :: rest) :
    step s = .next { s with inputs := rest, phase := .busy c, cmd := c, done := false, reply := .accepted } := by
  rw [step_write hr hi (resolve_reg 0x000 .cmd rfl), writeTarget, writeReg, issue_idle c _ (by exact hp)]

/-- The engine's turn completes the latched command (60_exceptions.md R213). -/
theorem step_engine {s : State} {c : Word} {rest : List Event} (hr : s.rst = false) (hp : s.phase = .busy c)
    (hi : s.inputs = .engine :: rest) : step s = .next (completedState (decode c) { s with inputs := rest }) := by
  rw [step_event hi, perform, engineTurn_busy _ c (by exact hr) (by exact hp), exec_eq_next]

/-- A STATUS read returns BUSY in bit 0, and DONE, masked while BUSY, in bit 1 (10_state.md R26, 20_memory.md R62). -/
theorem step_readStatus {s t : State} {rest : List Event} (hr : s.rst = false) (hi : s.inputs = .read 4 0x004 :: rest)
    (h : step s = .next t) :
    ∃ v, t.reply = .data v ∧ v.getLsbD 0 = isBusy s ∧ v.getLsbD 1 = (!isBusy s && s.done) := by
  rw [step_read hr hi (resolve_reg 0x004 .status rfl)] at h
  cases h
  obtain ⟨hbusy, hdone, -⟩ := packStatus_low (isBusy s) (!isBusy s && s.done) _ _ _ s.overrun _
  exact ⟨readStatus s, rfl, hbusy, hdone⟩

end Sys2Proof.Machine

namespace Sys2Proof.Claims
open Sys2Proof.Machine

/-- Settles O45: a legal access reaches one target, which its offset and width fix, and reads a draw exactly inside the write set. -/
theorem readsWhileBusy : Obligations.ReadsWhileBusy := by
  intro s c n off rest hr hp hi hl
  obtain ⟨g, hg⟩ := exists_resolve_of_legalAccess hl
  have hreg : ∀ r, regAt off.toNat = some r → readTarget g s = readReg r s := fun r h => by rw [resolve_eq_reg hg h]; rfl
  refine ⟨readTarget g s, step_read hr hi hg, ?_, ?_, ?_, ?_, ?_, ?_, ?_, ?_, ?_, ?_, ?_, ?_⟩
  · rintro rfl; exact hreg .cmd rfl
  · rintro rfl
    rw [hreg .status rfl, readReg, readStatus_busy hp, packStatus_overrun, packStatus_err]
    obtain ⟨h0, h1, h2, h3, h4⟩ := packStatus_low true false (readFlag .matchFlag 2 s.matched s)
      (readFlag .outbitFlag 3 s.outbit s) (readFlag .seedValidFlag 4 s.seedValid s) s.overrun
      ((Config.draw s.draws).extractLsb' 8 3)
    exact ⟨h0, h1, rfl, rfl, h2.trans (readFlag_busy hp _ _ _), h3.trans (readFlag_busy hp _ _ _),
      h4.trans (readFlag_busy hp _ _ _)⟩
  · rintro rfl; exact (hreg .lfsr rfl).trans (readField_busy hp (by decide) _ _)
  · rintro rfl; exact (hreg .ksbyte rfl).trans (readField_busy hp (by decide) _ _)
  · rintro rfl; exact (hreg .edcAcc rfl).trans (readField_word_busy hp _ _)
  · rintro rfl; exact (hreg .edcOut rfl).trans (readField_word_busy hp _ _)
  · rintro rfl; exact (hreg .seed rfl).trans (readField_busy hp (by decide) _ _)
  · rintro rfl; exact (hreg .ksLen rfl).trans (readField_busy hp (by decide) _ _)
  · rintro rfl; exact (hreg .scanCount rfl).trans (readField_busy hp (by decide) _ _)
  · rintro rfl
    rw [hreg .irqEn rfl, readReg]
    cases s.irqEn <;> rfl
  · rintro ha rfl
    obtain ⟨b, hb, ⟨hn, -⟩ | ⟨-, rfl⟩⟩ := resolve_buf_region hg ha
    · cases hn
    · have hbusy := bufBusy_iff hp hb
      split
      · rename_i hw
        exact if_pos (hbusy.mpr hw)
      · rename_i hw
        intro k hk
        rw [readTarget, if_neg (hw ∘ hbusy.mp)]
        exact le32_byteAt_lane s _ hk
  · rintro ha rfl
    obtain ⟨b, hb, ⟨-, rfl⟩ | ⟨hn, -⟩⟩ := resolve_buf_region hg ha
    · have hbusy := bufBusy_iff hp hb
      split
      · rename_i hw
        rw [readTarget, if_pos (hbusy.mpr hw), drawWord, BitVec.setWidth_eq_extractLsb' (w := 8) (by decide)]
      · rename_i hw
        exact if_neg (hw ∘ hbusy.mp)
    · cases hn

/-- Settles O46: an answered read changes the reply and the draws alone, and no IDLE register or written byte depends on them. -/
theorem readsHaveNoSideEffect : Obligations.ReadsHaveNoSideEffect := by
  intro s n off rest t hr hi h
  obtain ⟨g, hg, rfl⟩ := step_read_next hr hi h
  refine ⟨rfl, fun rest' u hp hi' hw hu => ?_⟩
  obtain ⟨g', hg', rfl⟩ := step_read_next (by exact hr) hi' hu
  cases hg.symm.trans hg'
  exact congrArg Reply.data (readTarget_idle_stable hp _ _ _ hg hw)

/-- Settles O48: the read's lanes are the trailing bytes from the lowest address on, the checksum's from the highest. -/
theorem trailerReadsByteSwapped : Obligations.TrailerReadsByteSwapped := by
  intro s rest hr hi
  have hg : resolve 4 0x180C = .ok (.word .sec 0x180C) := resolve_word 0x180C .sec rfl rfl
  refine ⟨_, step_read hr hi hg, ?_⟩
  have hread : readTarget (.word .sec 0x180C) s =
      le32 (byteAt s 0x180C) (byteAt s 0x180D) (byteAt s 0x180E) (byteAt s 0x180F) := rfl
  rw [hread, trailerValue_eq_le32, le32_inj]
  exact ⟨fun ⟨h03, h12, _, _⟩ => ⟨h03, h12⟩, fun ⟨h03, h12⟩ => ⟨h03, h12, h12.symm, h03.symm⟩⟩

/-- Settles O52: the read finds the engine BUSY after the issue, and IDLE with DONE set after the completion. -/
theorem statusReadAfterIssue : Obligations.StatusReadAfterIssue := by
  refine ⟨fun s c rest t u hr hp hi ht hu => ?_, fun s c rest t u w hr hp hi ht hu hw => ?_⟩
  · rw [step_issue hr hp hi] at ht
    cases ht
    exact step_readStatus (by exact hr) rfl hu
  · rw [step_issue hr hp hi] at ht
    cases ht
    rw [step_engine (by exact hr) rfl rfl] at hu
    cases hu
    obtain ⟨v, hv, hbusy, hdone⟩ := step_readStatus (by rw [completedState_rst]; exact hr) (completedState_inputs _ _) hw
    rw [isBusy_idle _ (completedState_phase _ _)] at hbusy hdone
    exact ⟨v, hv, hbusy, hdone.trans (completedState_done _ _)⟩

end Sys2Proof.Claims
end

section
/-! PROOF. The row of the opcode map is the word's OP, and encoding and decoding undo each other (30_encoding.md R81 to R88). -/

namespace Sys2Proof
open Sys2Proof.Machine Sys2Proof.Claims

/-! ### The row of the opcode map -/

/-- OP fixes the command's row: 0x0 to 0xB are a row each, 0xC to 0xF share one (30_encoding.md R87). -/
theorem rowOf_of_mem_ops (i : Instr) : ∀ op ∈ i.ops, rowOf i = min op 12 := by
  cases i <;> simp [Instr.ops, rowOf]

/-- OP 0xC to 0xF are the reserved row's (30_encoding.md R88). -/
theorem le_op_iff_isReserved (i : Instr) : ∀ op ∈ i.ops, 0xC ≤ op ↔ i.isReserved = true := by
  cases i <;> simp [Instr.ops, Instr.isReserved]

theorem isReserved_iff {i : Instr} : i.isReserved = true ↔ ∃ low, i = .reserved low := by
  cases i <;> simp [Instr.isReserved]

theorem le_opOf_iff_isReserved (c : Word) : 0xC ≤ opOf c ↔ (decode c).isReserved = true :=
  le_op_iff_isReserved (decode c) _ (opOf_mem_ops c)

/-- A reserved word keeps all bits below its top two (30_encoding.md R88). -/
theorem decode_of_le_opOf {c : Word} (h : 0xC ≤ opOf c) : decode c = .reserved (c.extractLsb' 0 30) := by
  have hop : (c.extractLsb' 28 4).toNat = opOf c := op_toNat c
  have hlt : opOf c < 0x10 := hop ▸ (c.extractLsb' 28 4).isLt
  unfold decode
  rw [hop]
  generalize opOf c = op at h hlt
  interval_cases op <;> rfl

/-! ### Decode of encode: each field stands where its format puts it -/

section
variable (op : BitVec 4)

/-- The fields of format N (30_encoding.md R82). -/
theorem fields_formatN (mbz : BitVec 28) :
    (op ++ mbz : Word).extractLsb' 28 4 = op ∧ (op ++ mbz : Word).extractLsb' 0 28 = mbz :=
  ⟨BitVec.extractLsb'_append_eq_left, BitVec.extractLsb'_append_eq_right⟩

/-- The fields of formats S and G (30_encoding.md R83, R84). -/
theorem fields_formatSG (hi : BitVec 12) (seed15 : BitVec 1) (seed : Seed) :
    (op ++ hi ++ seed15 ++ seed : Word).extractLsb' 28 4 = op ∧ (op ++ hi ++ seed15 ++ seed : Word).extractLsb' 16 12 = hi ∧
    (op ++ hi ++ seed15 ++ seed : Word).extractLsb' 15 1 = seed15 ∧
    (op ++ hi ++ seed15 ++ seed : Word).extractLsb' 0 15 = seed := by
  have aboveSeed : ∀ st w, 15 ≤ st →
      (op ++ hi ++ seed15 ++ seed : Word).extractLsb' st w = (op ++ hi ++ seed15).extractLsb' (st - 15) w :=
    extract_append_high (op ++ hi ++ seed15) seed
  have aboveBit15 : ∀ st w, 1 ≤ st → (op ++ hi ++ seed15).extractLsb' st w = (op ++ hi).extractLsb' (st - 1) w :=
    extract_append_high (op ++ hi) seed15
  refine ⟨?_, ?_, ?_, BitVec.extractLsb'_append_eq_right⟩
  · rw [aboveSeed 28 4 (by decide), aboveBit15 13 4 (by decide)]; exact BitVec.extractLsb'_append_eq_left
  · rw [aboveSeed 16 12 (by decide), aboveBit15 1 12 (by decide)]; exact BitVec.extractLsb'_append_eq_right
  · rw [aboveSeed 15 1 (by decide)]; exact BitVec.extractLsb'_append_eq_right

/-- The fields of format B (30_encoding.md R85). -/
theorem fields_formatB (mbz : BitVec 20) (byte : Byte) :
    (op ++ mbz ++ byte : Word).extractLsb' 28 4 = op ∧ (op ++ mbz ++ byte : Word).extractLsb' 8 20 = mbz ∧
    (op ++ mbz ++ byte : Word).extractLsb' 0 8 = byte := by
  have aboveByte : ∀ st w, 8 ≤ st → (op ++ mbz ++ byte : Word).extractLsb' st w = (op ++ mbz).extractLsb' (st - 8) w :=
    extract_append_high (op ++ mbz) byte
  refine ⟨?_, ?_, BitVec.extractLsb'_append_eq_right⟩
  · rw [aboveByte 28 4 (by decide)]; exact BitVec.extractLsb'_append_eq_left
  · rw [aboveByte 8 20 (by decide)]; exact BitVec.extractLsb'_append_eq_right

end

/-- Decoding undoes encoding, format by format. -/
theorem decode_encode (i : Instr) : decode (encode i) = i := by
  cases i with
  | reserved low =>
    have hop : 0xC ≤ opOf (encode (.reserved low)) := (le_op_iff_isReserved _ _ (Laws.OpField.reserved low)).mpr rfl
    rw [decode_of_le_opOf hop, encode, extract_append_low _ low 0 30 (Nat.le_refl 30), extract_whole]
  | lfsrLoad | genKs | setSeed => simp [decode, encode, fields_formatSG]
  | edcByte => simp [decode, encode, fields_formatB]
  | nop | lfsrStep | lfsrByte | edcClear | edcSector | decodeSector | search | clearSession =>
    simp [decode, encode, fields_formatN]

/-! ### Encode of decode: a word is its OP and its fields, put together again -/

section
variable {c : Word} {op : BitVec 4} (h : (c.extractLsb' 28 4).toNat = op.toNat)
include h

theorem append_formatN : op ++ c.extractLsb' 0 28 = c := by
  rw [← BitVec.eq_of_toNat_eq h, BitVec.extractLsb'_append_extractLsb'_eq_extractLsb' (show 28 = 0 + 28 from rfl), extract_whole]

theorem append_formatSG : op ++ c.extractLsb' 16 12 ++ c.extractLsb' 15 1 ++ c.extractLsb' 0 15 = c := by
  rw [← BitVec.eq_of_toNat_eq h, BitVec.extractLsb'_append_extractLsb'_eq_extractLsb' (show 28 = 16 + 12 from rfl),
    BitVec.extractLsb'_append_extractLsb'_eq_extractLsb' (show 16 = 15 + 1 from rfl),
    BitVec.extractLsb'_append_extractLsb'_eq_extractLsb' (show 15 = 0 + 15 from rfl), extract_whole]

theorem append_formatB : op ++ c.extractLsb' 8 20 ++ c.extractLsb' 0 8 = c := by
  rw [← BitVec.eq_of_toNat_eq h, BitVec.extractLsb'_append_extractLsb'_eq_extractLsb' (show 28 = 8 + 20 from rfl),
    BitVec.extractLsb'_append_extractLsb'_eq_extractLsb' (show 8 = 0 + 8 from rfl), extract_whole]

end

/-- A reserved word is its top two bits, both set, and the bits below them (30_encoding.md R88). -/
theorem append_reserved {c : Word} (h : 0xC ≤ opOf c) : 0b11#2 ++ c.extractLsb' 0 30 = c := by
  have hlt := c.isLt
  have htop : c.extractLsb' 30 2 = 0b11#2 := BitVec.eq_of_toNat_eq <| by
    unfold opOf at h
    simp only [BitVec.extractLsb'_toNat, Nat.shiftRight_eq_div_pow, BitVec.toNat_ofNat]
    omega
  rw [← htop, BitVec.extractLsb'_append_extractLsb'_eq_extractLsb' (show 30 = 0 + 30 from rfl), extract_whole]

/-- Encoding undoes decoding, format by format. -/
theorem encode_decode (c : Word) : encode (decode c) = c := by
  by_cases hres : 0xC ≤ opOf c
  · rw [decode_of_le_opOf hres]
    exact append_reserved hres
  · have hop : (c.extractLsb' 28 4).toNat < 0xC := by rw [op_toNat]; exact Nat.lt_of_not_le hres
    unfold decode
    split
    -- LFSR_LOAD, GEN_KS and SET_SEED
    case h_2 h | h_5 h | h_11 h => exact append_formatSG h
    -- EDC_BYTE
    case h_7 h => exact append_formatB h
    -- no OP below 0xC is left for the last row
    case h_13 => grind
    all_goals rename_i h; exact append_formatN h

end Sys2Proof

namespace Sys2Proof.Claims

/-- Settles O1: the fields pulled out of an encoded word are those put in, and OP tells the command. -/
theorem decodeEncodeRoundTrip : Obligations.DecodeEncodeRoundTrip := decode_encode

/-- Settles O2: OP and the fields of a word's format, put together again, are the word. -/
theorem encodeDecodeRoundTrip : Obligations.EncodeDecodeRoundTrip := encode_decode

end Sys2Proof.Claims
end

section
/-! PROOF. The decode procedure read off the bits of the word, and how each rejection completes (30_encoding.md R88, R89, R93). -/

namespace Sys2Proof
open Sys2Proof.Machine Sys2Proof.Claims

/-! ### Legal fields, by the bits of the word -/

section
variable (c : Word)

theorem extract_eq_zero_iff (st w : Nat) : c.extractLsb' st w = 0 ↔ c.toNat / 2 ^ st % 2 ^ w = 0 := by
  rw [← BitVec.toNat_inj, BitVec.extractLsb'_toNat, Nat.shiftRight_eq_div_pow]
  rfl

theorem seed15_eq_zero_iff : c.extractLsb' 15 1 = 0 ↔ c.getLsbD 15 = false := by
  rw [extract_eq_zero_iff, BitVec.getLsbD, Nat.testBit_eq_decide_div_mod_eq]
  simp

theorem formatNLegal_extract : formatNLegal (c.extractLsb' 0 28) = true ↔ c.toNat % 2 ^ 28 = 0 := by
  rw [formatNLegal_iff, extract_eq_zero_iff, Nat.pow_zero, Nat.div_one]

theorem formatSLegal_extract : formatSLegal (c.extractLsb' 16 12) (c.extractLsb' 15 1) = true ↔
    c.toNat / 2 ^ 16 % 2 ^ 12 = 0 ∧ c.getLsbD 15 = false := by
  rw [formatSLegal_iff, extract_eq_zero_iff, seed15_eq_zero_iff]

theorem formatGLegal_extract : formatGLegal (c.extractLsb' 16 12) (c.extractLsb' 15 1) = true ↔
    c.toNat / 2 ^ 16 % 2 ^ 12 ≤ 2048 ∧ c.getLsbD 15 = false := by
  rw [formatGLegal_iff, BitVec.extractLsb'_toNat, Nat.shiftRight_eq_div_pow, seed15_eq_zero_iff]

theorem formatBLegal_extract : formatBLegal (c.extractLsb' 8 20) = true ↔ c.toNat / 2 ^ 8 % 2 ^ 20 = 0 := by
  rw [formatBLegal_iff, extract_eq_zero_iff]

/-- A word is a legal command exactly when its OP is defined and its bits meet its format (30_encoding.md R88, R89). -/
theorem wf_decode_iff : (decode c).wf = true ↔ opOf c < 0xC ∧ ¬ badFields c := by
  have hop : (c.extractLsb' 28 4).toNat = opOf c := op_toNat c
  have hlt : opOf c < 0x10 := hop ▸ (c.extractLsb' 28 4).isLt
  unfold decode badFields
  rw [hop]
  generalize opOf c = op at hlt
  interval_cases op <;>
    simp [Instr.wf, formatNLegal_extract, formatSLegal_extract, formatGLegal_extract, formatBLegal_extract, and_comm]

end

/-- Only a defined OP has fields to be illegal (30_encoding.md R88, R89). -/
theorem opOf_lt_of_badFields {c : Word} (h : badFields c) : opOf c < 0xC := by
  simp only [badFields, List.mem_cons, List.not_mem_nil, or_false] at h
  omega

/-! ### The three outcomes of the decode procedure -/

theorem not_isReserved_of_wf {i : Instr} (h : i.wf = true) : i.isReserved = false := by
  cases i with
  | reserved low => cases h
  | _ => rfl

theorem decodeLegal_reserved {c : Word} (h : (decode c).isReserved = true) : decodeLegal c = .error .illegal := by
  rw [decodeLegal, if_pos h]

theorem decodeLegal_illFormed {c : Word} (hr : (decode c).isReserved = false) (hw : (decode c).wf = false) :
    decodeLegal c = .error .invalid := by
  simp [decodeLegal, hr, hw]

theorem decodeLegal_wf {c : Word} (h : (decode c).wf = true) : decodeLegal c = .ok (decode c) := by
  simp [decodeLegal, not_isReserved_of_wf h, h]

/-- The encoded word of a legal command is accepted. -/
theorem decodeLegal_encode {i : Instr} (h : i.wf = true) : decodeLegal (encode i) = .ok i := by
  rw [decodeLegal_wf (by rwa [decode_encode]), decode_encode]

/-! ### How a rejected word completes -/

/-- A reserved word completes with ILLEGAL_COMMAND and no other effect (30_encoding.md R88). -/
theorem exec_reserved (low : BitVec 30) (s : State) : exec (.reserved low) s = .next (completed .illegalCommand s) := rfl

/-- A word with an illegal field completes with INVALID_ARGUMENT and no other effect (30_encoding.md R89). -/
theorem exec_illFormed {i : Instr} (hr : i.isReserved = false) (hw : i.wf = false) (s : State) :
    exec i s = .next (completed .invalidArgument s) := by
  rw [exec_eq_complete, hr, hw]
  exact complete_illegal _ s

end Sys2Proof

namespace Sys2Proof.Claims
open Sys2Proof.Machine

/-- Settles O3: by whether the decoded command is reserved, ill-formed or legal, which OP and the fields' bits say. -/
theorem decodeProcedureByWordBits : Obligations.DecodeProcedureByWordBits := by
  refine fun c => ⟨fun hop => ?_, fun hbad => ?_, fun hop hgood => ?_⟩
  · have hres := (le_opOf_iff_isReserved c).mp hop
    refine ⟨decodeLegal_reserved hres, fun s => ?_⟩
    obtain ⟨low, e⟩ := isReserved_iff.mp hres
    rw [e, exec_reserved]
  · have hw : (decode c).wf = false := eq_false_of_ne_true fun hw => ((wf_decode_iff c).mp hw).2 hbad
    have hr : (decode c).isReserved = false := eq_false_of_ne_true fun hr =>
      Nat.not_lt.mpr ((le_opOf_iff_isReserved c).mpr hr) (opOf_lt_of_badFields hbad)
    exact ⟨decodeLegal_illFormed hr hw, exec_illFormed hr hw⟩
  · have hw := (wf_decode_iff c).mpr ⟨hop, hgood⟩
    exact ⟨decode c, decodeLegal_wf hw, rfl, hw, encode_decode c⟩

/-- Settles O18: the reserved row is the words whose OP is at least 0xC. -/
theorem reservedOpcodes : Obligations.ReservedOpcodes :=
  ⟨exec_reserved, rfl, fun c => (le_opOf_iff_isReserved c).trans isReserved_iff⟩

end Sys2Proof.Claims
end

section
/-! PROOF. The words of the legal commands, and what the assembler gives and refuses (30_encoding.md R87, R91, R92). -/

namespace Sys2Proof.Machine

/-! ### The word of each legal command with an operand -/

/-- A word of format S or G with c[15] clear is its fields, each moved to its place (30_encoding.md R83, R84). -/
theorem formatSG_eq_or (op : BitVec 4) (hi : BitVec 12) (seed : Seed) :
    (op ++ hi ++ 0#1 ++ seed : Word) = op.setWidth 32 <<< 28 ||| hi.setWidth 32 <<< 16 ||| seed.setWidth 32 := by
  rw [← BitVec.setWidth_eq (op ++ hi ++ 0#1 ++ seed), BitVec.setWidth_append_append_append_eq_shiftLeft_setWidth_or]
  simp

theorem encode_lfsrLoad (seed : Seed) : encode (.lfsrLoad 0 0 seed) = 0x10000000 ||| seed.setWidth 32 :=
  formatSG_eq_or 0x1#4 0#12 seed

theorem encode_setSeed (seed : Seed) : encode (.setSeed 0 0 seed) = 0xA0000000 ||| seed.setWidth 32 :=
  formatSG_eq_or 0xA#4 0#12 seed

theorem encode_genKs (len : BitVec 12) (seed : Seed) :
    encode (.genKs len 0 seed) = 0x40000000 ||| (len.setWidth 32 <<< 16) ||| seed.setWidth 32 :=
  formatSG_eq_or 0x4#4 len seed

theorem encode_edcByte (byte : Byte) : encode (.edcByte 0 byte) = 0x60000000 ||| byte.setWidth 32 := by
  have h : (0x6#4 ++ 0#20 ++ byte).setWidth 32 = 0x60000000 ||| byte.setWidth 32 :=
    BitVec.setWidth_append_append_eq_shiftLeft_setWidth_or
  rwa [BitVec.setWidth_eq] at h

/-! ### Operands -/

theorem asmSeed_of_le {n : Nat} (h : n ≤ 0x7FFF) : asmSeed n = some (BitVec.ofNat 15 n) := if_pos h

theorem asmSeed_eq_none_iff {n : Nat} : asmSeed n = none ↔ 0x7FFF < n := by simp [asmSeed]

theorem asmGenKs_eq_none_iff {n l : Nat} : asmGenKs n l = none ↔ 0x7FFF < n ∨ 2048 < l := by
  unfold asmGenKs
  split
  · rw [Option.map_eq_none_iff, asmSeed_eq_none_iff]; omega
  · exact iff_of_true rfl (.inr (by omega))

theorem assemble_edcByte_eq_none_iff {n : Nat} : assemble (.edcByte n) = none ↔ 0xFF < n := by simp [assemble]

/-- A seed operand in range stands in the word as it was written. -/
theorem setWidth_seedOperand {n : Nat} (h : n ≤ 0x7FFF) : (BitVec.ofNat 15 n).setWidth 32 = BitVec.ofNat 32 n :=
  BitVec.setWidth_ofNat_of_le_of_lt (by decide) (by omega)

/-! ### The words with operands -/

theorem assemble_lfsrLoad {n : Nat} (h : n ≤ 0x7FFF) : assemble (.lfsrLoad n) = some (0x10000000 ||| BitVec.ofNat 32 n) := by
  rw [assemble, asmSeed_of_le h, Option.map_some, encode_lfsrLoad, setWidth_seedOperand h]

theorem assemble_setSeed {n : Nat} (h : n ≤ 0x7FFF) : assemble (.setSeed n) = some (0xA0000000 ||| BitVec.ofNat 32 n) := by
  rw [assemble, asmSeed_of_le h, Option.map_some, encode_setSeed, setWidth_seedOperand h]

theorem assemble_genKs {n l : Nat} (h : n ≤ 0x7FFF) (hl : l ≤ 2048) :
    assemble (.genKs n l) = some (0x40000000 ||| (BitVec.ofNat 32 l <<< 16) ||| BitVec.ofNat 32 n) := by
  rw [assemble, asmGenKs, if_pos hl, asmSeed_of_le h, Option.map_some, encode_genKs, setWidth_seedOperand h,
    BitVec.setWidth_ofNat_of_le_of_lt (by decide) (by omega)]

theorem assemble_edcByte {n : Nat} (h : n ≤ 0xFF) : assemble (.edcByte n) = some (0x60000000 ||| BitVec.ofNat 32 n) := by
  rw [assemble, if_pos h, encode_edcByte, BitVec.setWidth_ofNat_of_le_of_lt (by decide) (by omega)]

/-! ### Every word given is a legal command's -/

theorem asmGenKs_legal {n l : Nat} {w : Word} (h : asmGenKs n l = some w) : ∃ i : Instr, i.wf = true ∧ w = encode i := by
  unfold asmGenKs at h
  split at h
  case isTrue hl =>
    obtain ⟨seed, -, rfl⟩ := Option.map_eq_some_iff.mp h
    refine ⟨.genKs (BitVec.ofNat 12 l) 0 seed, (formatGLegal_iff _ 0).mpr ⟨?_, rfl⟩, rfl⟩
    rw [BitVec.toNat_ofNat]
    omega
  case isFalse => cases h

/-- Each mnemonic's word is that of a legal command; `.word` gives any word (30_encoding.md R91). -/
theorem assemble_legal {a : Asm} {w : Word} (ha : ∀ v, a ≠ .word v) (h : assemble a = some w) :
    ∃ i : Instr, i.wf = true ∧ w = encode i := by
  cases a with
  | nop | lfsrStep | lfsrByte | edcClear | edcSector | decodeSector | search | clearSession =>
    cases h
    exact ⟨_, rfl, rfl⟩
  | lfsrLoad n | setSeed n =>
    obtain ⟨seed, -, rfl⟩ := Option.map_eq_some_iff.mp h
    exact ⟨_, rfl, rfl⟩
  | genKs n l => exact asmGenKs_legal h
  | genSectorKs n => exact asmGenKs_legal h
  | edcByte n =>
    obtain ⟨-, e⟩ := Option.ite_none_right_eq_some.mp h
    cases e
    exact ⟨_, rfl, rfl⟩
  | word v => exact absurd rfl (ha v)

end Sys2Proof.Machine

namespace Sys2Proof.Claims
open Sys2Proof.Machine

/-- Settles O4: the row is the word's OP, and each command's word is its fields, moved to their places. -/
theorem opcodeMapAndCommandWords : Obligations.OpcodeMapAndCommandWords :=
  ⟨fun c => rowOf_of_mem_ops (decode c) _ (opOf_mem_ops c), rfl, rfl, rfl, rfl, rfl, rfl, rfl, rfl, encode_lfsrLoad,
   encode_setSeed, encode_genKs, encode_edcByte⟩

/-- Settles O60: a word given is the encoded word of a legal command, which the decode procedure accepts. -/
theorem assemblerGivesLegalWords : Obligations.AssemblerGivesLegalWords := by
  refine ⟨rfl, rfl, rfl, rfl, rfl, rfl, rfl, rfl, fun _ => assemble_lfsrLoad, fun _ => assemble_setSeed,
    fun _ _ => assemble_genKs, fun _ => assemble_edcByte, fun a w ha h => ?_, fun _ => ?_, fun _ => ?_,
    fun _ _ => asmGenKs_eq_none_iff, fun _ => assemble_edcByte_eq_none_iff, fun _ => rfl, fun _ => rfl⟩
  · obtain ⟨i, hw, rfl⟩ := assemble_legal ha h
    exact ⟨i, decodeLegal_encode hw⟩
  · exact Option.map_eq_none_iff.trans asmSeed_eq_none_iff
  · exact Option.map_eq_none_iff.trans asmSeed_eq_none_iff

/-- Settles O5: `decode` computes on each of the words. -/
theorem sampleWordsDecode : Obligations.SampleWordsDecode :=
  ⟨rfl, rfl, rfl, rfl, rfl, rfl, rfl, rfl, rfl⟩

end Sys2Proof.Claims
end

section
/-! PROOF. The host's writes that start a command and that fill SECBUF (30_encoding.md R80, R92; 20_memory.md R52). -/

namespace Sys2Proof.Machine

/-! ### A write to CMD -/

/-- The host's CMD write is dropped with OVERRUN by a BUSY engine (60_exceptions.md R214). -/
theorem step_issue_busy {s : State} {c w : Word} {rest : List Event} (hr : s.rst = false) (hp : s.phase = .busy w)
    (hi : s.inputs = .write 4 0x000 c :: rest) :
    step s = .next { s with inputs := rest, overrun := true, reply := .accepted } := by
  rw [step_write hr hi (resolve_reg 0x000 .cmd rfl), writeTarget, writeReg, issue_busy c w _ (by exact hp)]

/-! ### LOADSEC -/

/-- A run one step longer takes its last step from where the shorter one ends. -/
theorem run_succ {M : Host.Core} {n : Nat} {s t : M.State} (h : M.run n s = .next t) : M.run (n + 1) s = M.step t := by
  induction n generalizing s with
  | zero =>
    cases h
    rw [Host.Core.run]
    cases M.step t <;> rfl
  | succ n ih =>
    rw [Host.Core.run] at h ⊢
    split at h
    · exact ih h
    · cases h
    · cases h

/-- Lane j of the k-th word of a sector image is byte 4k + j (30_encoding.md R92). -/
theorem laneWord_lane (img : List Byte) (k : Nat) {j : Nat} (hj : j < 4) :
    (laneWord img k).extractLsb' (8 * j) 8 = img.getD (4 * k + j) 0 := by
  obtain ⟨h0, h1, h2, h3⟩ := le32_lane (img.getD (4 * k) 0) (img.getD (4 * k + 1) 0) (img.getD (4 * k + 2) 0)
    (img.getD (4 * k + 3) 0)
  interval_cases j
  · exact h0
  · exact h1
  · exact h2
  · exact h3

/-- `t` is `s` after the first n word writes of LOADSEC, with `rest` still to come: the first 4n bytes of the image stand in
SECBUF, and nothing else has changed. -/
structure LoadedWords (img : List Byte) (s : State) (rest : List Event) (n : Nat) (t : State) : Prop where
  frame : t = { s with inputs := rest, mem := t.mem, reply := t.reply }
  reply : n ≠ 0 → t.reply = .accepted
  loaded : ∀ i, i < 4 * n → t.mem.get (0x1000 + i) = some (img.getD i 0)
  outside : ∀ a, ¬ (0x1000 ≤ a ∧ a < 0x1000 + 4 * n) → t.mem.get a = s.mem.get a

/-- The next word write of LOADSEC. -/
theorem loadedWords_step {img : List Byte} {s t : State} {rest : List Event} {n : Nat} (hr : s.rst = false) (hp : s.phase = .idle)
    (hn : n < 516)
    (h : LoadedWords img s (.write 4 (BitVec.ofNat 14 (0x1000 + 4 * n)) (laneWord img n) :: rest) n t) :
    ∃ u, step t = .next u ∧ LoadedWords img s rest (n + 1) u := by
  obtain ⟨hframe, -, hloaded, houtside⟩ := h
  have hoff : (BitVec.ofNat 14 (0x1000 + 4 * n)).toNat = 0x1000 + 4 * n := by rw [BitVec.toNat_ofNat]; omega
  have htr : t.rst = false := by rw [hframe]; exact hr
  have htp : t.phase = .idle := by rw [hframe]; exact hp
  obtain ⟨hstore, -⟩ := Claims.secbufWrites t 4 _ _ rest htr (by rw [hframe]) (by omega) (by omega) (by omega)
  obtain ⟨u, hu, huframe, hlanes, hother⟩ := hstore htp
  rw [hoff] at hlanes hother
  refine ⟨u, hu, ?_, fun _ => by rw [huframe], fun i hi => ?_, fun a ha => ?_⟩
  · rw [huframe, hframe]
  · by_cases hlt : i < 4 * n
    · rw [hother _ (by omega), hloaded i hlt]
    · obtain ⟨j, rfl⟩ := Nat.exists_eq_add_of_le (Nat.le_of_not_lt hlt)
      have hj : j < 4 := by omega
      rw [← Nat.add_assoc, hlanes j hj, laneWord_lane img n hj]
  · rw [hother a (by omega), houtside a (by omega)]

/-- The word writes of LOADSEC, one after the other. -/
theorem run_loadSec {img : List Byte} {s : State} (hr : s.rst = false) (hp : s.phase = .idle) (n : Nat) (hn : n ≤ 516)
    (rest : List Event)
    (hi : s.inputs =
      (List.range n).map (fun k => .write 4 (BitVec.ofNat 14 (0x1000 + 4 * k)) (laneWord img k)) ++ rest) :
    ∃ t, core.run n s = .next t ∧ LoadedWords img s rest n t := by
  induction n generalizing rest with
  | zero =>
    obtain rfl : s.inputs = rest := hi
    exact ⟨s, rfl, rfl, fun h => absurd rfl h, fun i hi => absurd hi (Nat.not_lt_zero i), fun _ _ => rfl⟩
  | succ n ih =>
    rw [List.range_succ, List.map_append, List.append_assoc] at hi
    obtain ⟨t, ht, hloaded⟩ := ih (by omega) _ hi
    obtain ⟨u, hu, hnext⟩ := loadedWords_step hr hp hn hloaded
    exact ⟨u, (run_succ (M := core) ht).trans hu, hnext⟩

end Sys2Proof.Machine

namespace Sys2Proof.Claims
open Sys2Proof.Machine

/-- Settles O59: LOADSEC is 516 SECBUF word writes in a row, which leave the image and nothing else. -/
theorem loadsecFillsTheSectorBuffer : Obligations.LoadsecFillsTheSectorBuffer := by
  intro s img es rest hr hp hlen hes hi
  rw [expand, if_pos hlen] at hes
  rw [← Option.some.inj hes, loadSecEvents] at hi
  obtain ⟨t, ht, hframe, hreply, hloaded, houtside⟩ := run_loadSec hr hp 516 (Nat.le_refl _) rest hi
  refine ⟨t, ht, ?_, fun i hlt => ?_, houtside⟩
  · rw [← hreply (by decide)]; exact hframe
  · rw [hloaded i hlt, List.getD_eq_getElem _ _ (hlen ▸ hlt), List.getElem?_eq_getElem]

/-- Settles O38: a CMD write reaches CMD, which an IDLE engine latches and a BUSY one does not take. -/
theorem cmdWriteIssuesOrDrops : Obligations.CmdWriteIssuesOrDrops := fun _ _ _ hr hi =>
  ⟨fun hp => step_issue hr hp hi, fun _ hp => step_issue_busy hr hp hi⟩

end Sys2Proof.Claims
end

section
/-! PROOF. The keystream generator step by step: each step bit by bit, the state after many steps, and where each keystream bit comes
from (40_lfsr.md R100 to R107). -/

namespace Sys2Proof.Machine
open Sys2Proof.Claims

/-! ### A bit shifted in from below -/

section
variable {w : Nat} (x : BitVec w) (o : Bool)

theorem getLsbD_shiftIn_zero (hw : 0 < w) : (x <<< 1 ||| (BitVec.ofBool o).setWidth w).getLsbD 0 = o := by simp [hw]

theorem getLsbD_shiftIn_succ {k : Nat} (hk : k + 1 < w) :
    (x <<< 1 ||| (BitVec.ofBool o).setWidth w).getLsbD (k + 1) = x.getLsbD k := by
  simp [hk, -BitVec.getLsbD_eq_getElem]

end

/-! ### One step -/

/-- The state after one step (40_lfsr.md R100). -/
def lfsrNext (r : Seed) : Seed := (lfsrStep r).2

theorem getLsbD_lfsrNext_zero (r : Seed) : (lfsrNext r).getLsbD 0 = (r.getLsbD 14 ^^ r.getLsbD 10) :=
  getLsbD_shiftIn_zero r _ (by decide)

theorem getLsbD_lfsrNext_succ (r : Seed) {k : Nat} (hk : k < 14) : (lfsrNext r).getLsbD (k + 1) = r.getLsbD k :=
  getLsbD_shiftIn_succ r _ (Nat.succ_lt_succ hk)

theorem lfsrNext_zero : lfsrNext 0 = 0 := rfl

/-- A step is linear over GF(2) (40_lfsr.md R106). -/
theorem lfsrNext_xor (a b : Seed) : lfsrNext (a ^^^ b) = lfsrNext a ^^^ lfsrNext b := by
  apply BitVec.eq_of_getLsbD_eq
  intro k hk
  cases k with
  | zero =>
    simp only [BitVec.getLsbD_xor, getLsbD_lfsrNext_zero, Bool.xor_assoc, Bool.xor_left_comm]
  | succ k => simp only [BitVec.getLsbD_xor, getLsbD_lfsrNext_succ _ (Nat.lt_of_succ_lt_succ hk)]

/-- Bits 13 to 0 are moved up, and bit 14 is what the new bit 0 and bit 10 tell (40_lfsr.md R106). -/
theorem lfsrNext_injective : Function.Injective lfsrNext := by
  intro a b h
  have hlow : ∀ k, k < 14 → a.getLsbD k = b.getLsbD k := fun k hk => by
    rw [← getLsbD_lfsrNext_succ a hk, h, getLsbD_lfsrNext_succ b hk]
  have htop : (a.getLsbD 14 ^^ a.getLsbD 10) = (b.getLsbD 14 ^^ b.getLsbD 10) := by
    rw [← getLsbD_lfsrNext_zero a, h, getLsbD_lfsrNext_zero b]
  rw [hlow 10 (by decide), Bool.xor_left_inj] at htop
  apply BitVec.eq_of_getLsbD_eq
  intro k hk
  obtain hk' | rfl := Nat.lt_succ_iff_lt_or_eq.mp hk
  · exact hlow k hk'
  · exact htop

/-! ### Many steps -/

theorem lfsrAfter_eq_iterate (r : Seed) (k : Nat) : lfsrAfter r k = lfsrNext^[k] r := by
  induction k with
  | zero => rfl
  | succ k ih => rw [Function.iterate_succ_apply', ← ih]; rfl

/-- The steps may be taken in two runs. -/
theorem lfsrAfter_lfsrAfter (r : Seed) (m n : Nat) : lfsrAfter (lfsrAfter r m) n = lfsrAfter r (m + n) := by
  simp only [lfsrAfter_eq_iterate, Nat.add_comm m n, Function.iterate_add_apply]

theorem lfsrAfter_xor (a b : Seed) (k : Nat) : lfsrAfter (a ^^^ b) k = lfsrAfter a k ^^^ lfsrAfter b k := by
  simp only [lfsrAfter_eq_iterate]
  exact Function.Semiconj₂.iterate lfsrNext_xor k a b

theorem lfsrAfter_zeroSeed (k : Nat) : lfsrAfter 0 k = 0 := by
  rw [lfsrAfter_eq_iterate, Function.iterate_fixed lfsrNext_zero]

theorem lfsrAfter_injective (k : Nat) : Function.Injective fun r => lfsrAfter r k := by
  simp only [lfsrAfter_eq_iterate]
  exact lfsrNext_injective.iterate k

/-! ### The output bits -/

/-- The output stream from a later state is the stream from there on. -/
theorem outBit_lfsrAfter (r : Seed) (m k : Nat) : outBit (lfsrAfter r m) k = outBit r (m + k) := by
  rw [outBit, outBit, lfsrAfter_lfsrAfter]

/-- A state is its next 15 outputs, most significant bit first (40_lfsr.md R104). -/
theorem getLsbD_lfsrAfter (r : Seed) (t : Nat) {k : Nat} (hk : k ≤ 14) : (lfsrAfter r t).getLsbD (14 - k) = outBit r (t + k) := by
  induction k generalizing t with
  | zero => rfl
  | succ k ih =>
    have hbit : 14 - k = 14 - (k + 1) + 1 := by omega
    rw [← getLsbD_lfsrNext_succ _ (by omega), ← hbit, Nat.add_comm k 1, ← Nat.add_assoc, ← ih (t + 1) (by omega)]
    rfl

theorem outBit_of_le (r : Seed) {k : Nat} (hk : k ≤ 14) : outBit r k = r.getLsbD (14 - k) := by
  rw [← Nat.zero_add k, ← getLsbD_lfsrAfter r 0 hk, Nat.zero_add]
  rfl

/-- The feedback of a step comes out 15 steps later (40_lfsr.md R106). -/
theorem outBit_recurrence (r : Seed) (t : Nat) : outBit r (t + 15) = (outBit r (t + 4) ^^ outBit r t) := by
  rw [← Nat.add_right_comm t 1 14, ← getLsbD_lfsrAfter r (t + 1) (Nat.le_refl 14),
    ← getLsbD_lfsrAfter r t (by decide : 4 ≤ 14), Bool.xor_comm]
  exact getLsbD_lfsrNext_zero (lfsrAfter r t)

/-! ### One byte -/

/-- The loop of `byteStep` with n steps left: it takes n steps (40_lfsr.md R101). -/
theorem bitSteps_snd (n : Nat) (v : Byte) (t : Seed) : (bitSteps n v t).2 = lfsrAfter t n := by
  induction n generalizing v t with
  | zero => rfl
  | succ n ih => rw [bitSteps, ih, Nat.add_comm n 1, ← lfsrAfter_lfsrAfter t 1 n]; rfl

/-- The loop shifts the outputs of its n steps in from below (40_lfsr.md R101). -/
theorem getLsbD_bitSteps_fst (n : Nat) (v : Byte) (t : Seed) {i : Nat} (hi : i < 8) :
    (bitSteps n v t).1.getLsbD i = if i < n then outBit t (n - 1 - i) else v.getLsbD (i - n) := by
  induction n generalizing v t with
  | zero => rfl
  | succ n ih =>
    have hnext : ∀ k, outBit (lfsrStep t).2 k = outBit t (1 + k) := outBit_lfsrAfter t 1
    rw [bitSteps, ih, hnext]
    obtain hlt | rfl | hgt := Nat.lt_trichotomy i n
    · rw [if_pos hlt, if_pos (by omega)]
      congr 1
      omega
    · rw [if_neg (Nat.lt_irrefl i), if_pos (Nat.lt_succ_self i), Nat.sub_self, getLsbD_shiftIn_zero _ _ (by decide),
        Nat.add_sub_cancel, Nat.sub_self]
      rfl
    · obtain ⟨d, rfl⟩ := Nat.exists_eq_add_of_lt hgt
      have hbit : n + d + 1 - n = d + 1 := by omega
      rw [if_neg (by omega), if_neg (by omega), hbit, getLsbD_shiftIn_succ _ _ (by omega), Nat.add_right_comm,
        Nat.add_sub_cancel_left]

theorem byteStep_snd (r : Seed) : (byteStep r).2 = lfsrAfter r 8 := bitSteps_snd 8 0 r

theorem getLsbD_byteStep_fst (r : Seed) {i : Nat} (hi : i < 8) : (byteStep r).1.getLsbD i = outBit r (7 - i) := by
  rw [byteStep, getLsbD_bitSteps_fst 8 0 r hi, if_pos hi]

/-- The byte is the top 8 bits of the state (40_lfsr.md R104, R112). -/
theorem byteStep_fst (r : Seed) : (byteStep r).1 = r.extractLsb' 7 8 := by
  apply BitVec.eq_of_getLsbD_eq
  intro i hi
  rw [getLsbD_byteStep_fst r hi, outBit_of_le r (by omega), BitVec.getLsbD_extractLsb']
  have hbit : 14 - (7 - i) = 7 + i := by omega
  simp [hi, hbit]

/-! ### The keystream -/

theorem cypherState_eq_lfsrAfter (r : Seed) (n : Nat) : cypherState r n = lfsrAfter r (8 * n) := by
  induction n generalizing r with
  | zero => rfl
  | succ n ih => rw [cypherState, ih, byteStep_snd, lfsrAfter_lfsrAfter, Nat.mul_succ, Nat.add_comm]

/-- Byte j of the keystream is the top of the state after 8j steps (40_lfsr.md R102). -/
theorem cypher_eq_map (r : Seed) (n : Nat) : cypher r n = (List.range n).map fun j => (lfsrAfter r (8 * j)).extractLsb' 7 8 := by
  induction n generalizing r with
  | zero => rfl
  | succ n ih =>
    rw [cypher, ih, List.range_succ_eq_map, List.map_cons, List.map_map, byteStep_fst, byteStep_snd]
    simp only [lfsrAfter_lfsrAfter, Nat.add_comm 8]
    rfl

theorem getD_cypher (r : Seed) {n j : Nat} (hj : j < n) : (cypher r n).getD j 0 = (lfsrAfter r (8 * j)).extractLsb' 7 8 := by
  simp [cypher_eq_map, hj]

/-- Bit 7 - k of byte j is output 8j + k (40_lfsr.md R101). -/
theorem getLsbD_getD_cypher (r : Seed) {n j k : Nat} (hj : j < n) (hk : k < 8) :
    ((cypher r n).getD j 0).getLsbD (7 - k) = outBit r (8 * j + k) := by
  have hbit : 7 + (7 - k) = 14 - k := by omega
  have hlt : 7 - k < 8 := by omega
  rw [getD_cypher r hj, BitVec.getLsbD_extractLsb', hbit, getLsbD_lfsrAfter r _ (by omega)]
  simp [hlt]

theorem take_cypher (r : Seed) {n m : Nat} (h : n ≤ m) : (cypher r m).take n = cypher r n := by
  rw [cypher_eq_map, cypher_eq_map, ← List.map_take, List.take_range, Nat.min_eq_left h]

theorem cypher_xor (a b : Seed) (n : Nat) : cypher (a ^^^ b) n = xorBytes (cypher a n) (cypher b n) := by
  simp only [cypher_eq_map, xorBytes, List.zipWith_map, List.zipWith_self, lfsrAfter_xor, BitVec.extractLsb'_xor]

theorem cypher_zeroSeed (n : Nat) : cypher 0 n = zeros n := by
  simp only [cypher_eq_map, lfsrAfter_zeroSeed, List.map_const', List.length_range]
  rfl

theorem xorBytes_zeros {bs : List Byte} {n : Nat} (h : bs.length ≤ n) : xorBytes bs (zeros n) = bs := by
  apply List.ext_getElem?
  intro i
  by_cases hi : i < bs.length
  · simp [xorBytes, zeros, hi, hi.trans_le h]
  · simp [xorBytes, hi]

/-- The seed can be read off the first 15 keystream bits (40_lfsr.md R104). -/
theorem getLsbD_seed_eq_cypher (r : Seed) {n i : Nat} (hn : 2 ≤ n) (hi : i < 15) :
    r.getLsbD i = ((cypher r n).getD ((14 - i) / 8) 0).getLsbD (7 - (14 - i) % 8) := by
  rw [getLsbD_getD_cypher r (by omega) (by omega), Nat.div_add_mod, outBit_of_le r (by omega), Nat.sub_sub_self (by omega)]

theorem cypher_injective {n : Nat} (hn : 2 ≤ n) : Function.Injective fun r => cypher r n := by
  intro a b h
  apply BitVec.eq_of_getLsbD_eq
  intro i hi
  rw [getLsbD_seed_eq_cypher a hn hi, getLsbD_seed_eq_cypher b hn hi]
  exact congrArg (fun bs => (bs.getD ((14 - i) / 8) 0).getLsbD (7 - (14 - i) % 8)) h

/-- The first byte is the seed's top 8 bits (40_lfsr.md R104). -/
theorem cypher_one (r : Seed) : cypher r 1 = [(r >>> 7).setWidth 8] := by
  rw [BitVec.setWidth_ushiftRight_eq_extractLsb, ← byteStep_fst]
  rfl

end Sys2Proof.Machine

namespace Sys2Proof.Claims
open Sys2Proof.Machine

/-- Settles O25: a state is its next 15 outputs, and output 15 is the feedback of the first step. -/
theorem firstKeystreamBitsAreTheSeed : Obligations.FirstKeystreamBitsAreTheSeed := by
  intro seed
  have hbit : ∀ {i}, i < 8 → (byteStep (byteStep seed).2).1.getLsbD i = outBit seed (8 + (7 - i)) := fun hi => by
    rw [getLsbD_byteStep_fst _ hi, byteStep_snd, outBit_lfsrAfter]
  refine ⟨fun k hk => outBit_of_le seed hk, cypher_one seed, _, _, rfl, fun k hk => ?_, ?_⟩
  · rw [hbit (by omega), outBit_of_le seed (by omega)]
    congr 1
    omega
  · rw [hbit (by decide), outBit_recurrence seed 0, outBit_of_le seed (by decide), outBit_of_le seed (by decide), Bool.xor_comm]

/-- Settles O27: each step is linear, and each byte is a slice of the state. -/
theorem keystreamIsLinear : Obligations.KeystreamIsLinear := fun a b n =>
  ⟨cypher_xor a b n, by simp only [cypherState_eq_lfsrAfter, lfsrAfter_xor]⟩

/-- Settles O28: byte j is the top of the state after 8j steps, whose bits are the next outputs. -/
theorem keystreamBitsAndRecurrence : Obligations.KeystreamBitsAndRecurrence := fun seed =>
  ⟨fun _ _ _ => getLsbD_getD_cypher seed, outBit_recurrence seed⟩

/-- Settles O30: two bytes hold the first 15 outputs, which are the seed; one byte holds its top 8 bits alone. -/
theorem keystreamInjectiveFromTwoBytes : Obligations.KeystreamInjectiveFromTwoBytes :=
  ⟨fun _ _ _ hn h => cypher_injective hn h, fun a b h => by rw [cypher_one, cypher_one, h], rfl, rfl⟩

end Sys2Proof.Claims
end

section
/-! PROOF. The period of the generator (40_lfsr.md R106). Each state is a polynomial in the step at the state 0x0800, so states
multiply as these polynomials do: the state after 2n steps is the square of the state after n, and a state far on takes few steps to
compute. -/

namespace Sys2Proof.Machine
open Sys2Proof.Claims

/-! ### States as polynomials in the step -/

/-- The polynomial in the step whose value at 0x0800 is the state s, at r: Horner's rule with n of its 15 coefficients taken in, the
highest degree first. The coefficient of degree i is bit (11 + i) % 15 of s, as i steps from 0x0800 leave that bit alone set. -/
def lfsrPoly (s r : Seed) : Nat → Seed
  | 0 => 0
  | n + 1 => lfsrNext (lfsrPoly s r n) ^^^ if s.getLsbD ((25 - n) % 15) then r else 0

/-- A polynomial in the step commutes with the step, which is linear. -/
theorem lfsrPoly_lfsrNext (s r : Seed) (n : Nat) : lfsrPoly s (lfsrNext r) n = lfsrNext (lfsrPoly s r n) := by
  induction n with
  | zero => exact lfsrNext_zero.symm
  | succ n ih => rw [lfsrPoly, lfsrPoly, lfsrNext_xor, ih, apply_ite lfsrNext, lfsrNext_zero]

theorem lfsrPoly_iterate (s r : Seed) (n k : Nat) : lfsrPoly s (lfsrNext^[k] r) n = lfsrNext^[k] (lfsrPoly s r n) :=
  Function.Semiconj.iterate_right (f := fun r => lfsrPoly s r n) (fun r => lfsrPoly_lfsrNext s r n) k r

theorem getLsbD_ite_unit (b : Bool) (i : Nat) : (if b then 0x0800 else 0 : Seed).getLsbD i = (b && decide (11 = i)) := by
  cases b
  · exact BitVec.getLsbD_zero
  · exact BitVec.getLsbD_twoPow 11 i

/-- With n coefficients in, the bits of s that they are stand 15 - n steps short of their own places, and bit 10, which feeds back, is
clear while a coefficient is still to come. -/
theorem getLsbD_lfsrPoly_unit (s : Seed) {n j : Nat} (hn : n ≤ 15) (hj : j < 15) :
    (lfsrPoly s 0x0800 n).getLsbD j = (decide ((25 + n - j) % 15 < n) && s.getLsbD ((15 + j - n) % 15)) := by
  induction n generalizing j with
  | zero => simp [lfsrPoly]
  | succ n ih =>
    rw [lfsrPoly, BitVec.getLsbD_xor, getLsbD_ite_unit]
    cases j with
    | zero =>
      have h10 : ¬ (25 + n - 10) % 15 < n := by omega
      have h14 : (25 + n - 14) % 15 < n ↔ (25 + (n + 1) - 0) % 15 < n + 1 := by omega
      have hbit : (15 + 14 - n) % 15 = (15 + 0 - (n + 1)) % 15 := by omega
      rw [getLsbD_lfsrNext_zero, ih (by omega) (by decide), ih (by omega) (by decide)]
      simp [h10, h14, hbit]
    | succ j =>
      rw [getLsbD_lfsrNext_succ _ (by omega), ih (by omega) (by omega)]
      -- the new coefficient enters at bit 11
      by_cases h : j = 10
      · subst h
        have h10 : ¬ (25 + n - 10) % 15 < n := by omega
        have hlt : (25 + (n + 1) - (10 + 1)) % 15 < n + 1 := by omega
        have hbit : (25 - n) % 15 = (15 + (10 + 1) - (n + 1)) % 15 := by omega
        simp [h10, hlt, hbit]
      · have h11 : ¬ 11 = j + 1 := by omega
        have hlt : (25 + n - j) % 15 < n ↔ (25 + (n + 1) - (j + 1)) % 15 < n + 1 := by omega
        have hbit : (15 + j - n) % 15 = (15 + (j + 1) - (n + 1)) % 15 := by omega
        simp [h11, hlt, hbit]

theorem lfsrPoly_unit (s : Seed) : lfsrPoly s 0x0800 15 = s := by
  apply BitVec.eq_of_getLsbD_eq
  intro j hj
  have hlt : (25 + 15 - j) % 15 < 15 := Nat.mod_lt _ (by decide)
  rw [getLsbD_lfsrPoly_unit s (Nat.le_refl 15) hj, Nat.add_sub_cancel_left, Nat.mod_eq_of_lt hj, decide_eq_true hlt, Bool.true_and]

/-- The product of two states, as the polynomials whose values at 0x0800 they are. -/
def lfsrMul (s t : Seed) : Seed := lfsrPoly s t 15

theorem lfsrMul_iterate (s : Seed) (k : Nat) : lfsrMul s (lfsrNext^[k] 0x0800) = lfsrNext^[k] s := by
  rw [lfsrMul, lfsrPoly_iterate, lfsrPoly_unit]

/-! ### A state far on -/

/-- The state after n steps from 0x0800, for n below 2^k, by squaring. -/
def lfsrPower : Nat → Nat → Seed
  | 0, _ => 0x0800
  | k + 1, n =>
    if n % 2 = 0 then lfsrMul (lfsrPower k (n / 2)) (lfsrPower k (n / 2))
    else lfsrNext (lfsrMul (lfsrPower k (n / 2)) (lfsrPower k (n / 2)))

theorem lfsrPower_eq_iterate {k n : Nat} (hn : n < 2 ^ k) : lfsrPower k n = lfsrNext^[n] 0x0800 := by
  induction k generalizing n with
  | zero => rw [Nat.lt_one_iff.mp hn]; rfl
  | succ k ih =>
    have hhalf : n / 2 < 2 ^ k := by omega
    rw [lfsrPower, ih hhalf, lfsrMul_iterate, ← Function.iterate_add_apply]
    split
    · congr 2
      omega
    · rw [← Function.iterate_succ_apply' lfsrNext]
      congr 2
      omega


/-! ### The period -/

theorem iterate_eq_lfsrMul_lfsrPower (r : Seed) {k n : Nat} (hn : n < 2 ^ k) : lfsrNext^[n] r = lfsrMul r (lfsrPower k n) := by
  rw [lfsrPower_eq_iterate hn, lfsrMul_iterate]

/-- Every state comes back after 32767 steps, as 0x0800 does. -/
theorem iterate_lfsrNext_period (r : Seed) : lfsrNext^[32767] r = r := by
  have hunit : lfsrPower 15 32767 = 0x0800 := by decide +kernel
  rw [iterate_eq_lfsrMul_lfsrPower r (k := 15) (by decide), hunit]
  exact lfsrPoly_unit r

/-- A period is minimal when its quotients by its primes are not periods. -/
theorem minimalPeriod_eq_of_not_isPeriodicPt_div {α : Type} {f : α → α} {x : α} {n : Nat} (h : Function.IsPeriodicPt f n x)
    (hd : ∀ p, p.Prime → p ∣ n → ¬ Function.IsPeriodicPt f (n / p) x) : Function.minimalPeriod f x = n := by
  obtain ⟨q, hq⟩ := h.minimalPeriod_dvd
  by_cases hq1 : q = 1
  · rw [hq, hq1, Nat.mul_one]
  · obtain ⟨p, hp, d, rfl⟩ := Nat.exists_prime_and_dvd hq1
    rw [Nat.mul_left_comm] at hq
    refine absurd ?_ (hd p hp ⟨_, hq⟩)
    rw [Function.isPeriodicPt_iff_minimalPeriod_dvd, hq, Nat.mul_div_cancel_left _ hp.pos]
    exact ⟨d, rfl⟩

theorem prime_dvd_32767 {p : Nat} (hp : p.Prime) (h : p ∣ 32767) : p = 7 ∨ p = 31 ∨ p = 151 := by
  have hfactors : p ∣ 7 ∨ p ∣ 31 ∨ p ∣ 151 := by
    rw [← hp.dvd_mul, ← hp.dvd_mul]
    exact h
  have heq : ∀ {q : Nat}, q.Prime → p ∣ q → p = q := fun hq => (Nat.prime_dvd_prime_iff_eq hp hq).mp
  exact hfactors.imp (heq (by norm_num)) (Or.imp (heq (by norm_num)) (heq (by norm_num)))

theorem minimalPeriod_lfsrNext_one : Function.minimalPeriod lfsrNext 0x0001 = 32767 := by
  have hpower : ∀ n, n < 2 ^ 13 → lfsrMul 0x0001 (lfsrPower 13 n) ≠ 0x0001 → ¬ Function.IsPeriodicPt lfsrNext n 0x0001 :=
    fun n hn hne h => hne ((iterate_eq_lfsrMul_lfsrPower 0x0001 hn).symm.trans h)
  refine minimalPeriod_eq_of_not_isPeriodicPt_div (iterate_lfsrNext_period 0x0001) fun p hp hdvd => ?_
  rcases prime_dvd_32767 hp hdvd with rfl | rfl | rfl
  · exact hpower 4681 (by decide) (by decide +kernel)
  · exact hpower 1057 (by decide) (by decide +kernel)
  · exact hpower 217 (by decide) (by decide +kernel)

theorem iterate_lfsrNext_ne_zero {r : Seed} (hr : r ≠ 0) (k : Nat) : lfsrNext^[k] r ≠ 0 := fun h =>
  hr (lfsrNext_injective.iterate k (h.trans (Function.iterate_fixed lfsrNext_zero k).symm))

/-- The 32767 states on the cycle of 0x0001 are all the nonzero ones there are. -/
theorem exists_iterate_lfsrNext_one {seed : Seed} (h : seed ≠ 0) : ∃ k, k < 32767 ∧ lfsrNext^[k] 0x0001 = seed := by
  have hmaps : Set.MapsTo (fun k => lfsrNext^[k] 0x0001) (Finset.range 32767) (Finset.univ.erase (0 : Seed)) := fun k _ =>
    Finset.mem_coe.mpr (Finset.mem_erase.mpr ⟨iterate_lfsrNext_ne_zero (by decide) k, Finset.mem_univ _⟩)
  have hinj : Set.InjOn (fun k => lfsrNext^[k] 0x0001) (Finset.range 32767) := by
    rw [Finset.coe_range, ← minimalPeriod_lfsrNext_one]
    exact Function.iterate_injOn_Iio_minimalPeriod
  have hcard : (Finset.univ.erase (0 : Seed)).card ≤ (Finset.range 32767).card := by
    rw [Finset.card_erase_of_mem (Finset.mem_univ _), Finset.card_univ, ← FinEnum.card_eq_fintypeCard, FinEnum.card_bitVec,
      Finset.card_range]
    decide
  obtain ⟨k, hk, e⟩ := Finset.surjOn_of_injOn_of_card_le _ hmaps hinj hcard
    (Finset.mem_coe.mpr (Finset.mem_erase.mpr ⟨h, Finset.mem_univ _⟩))
  exact ⟨k, Finset.mem_range.mp (Finset.mem_coe.mp hk), e⟩

end Sys2Proof.Machine

namespace Sys2Proof.Claims
open Sys2Proof.Machine

/-- Settles O29: 32767 steps bring every state back, no quotient by 7, 31 or 151 brings 0x0001 back, and a cycle of 32767 nonzero
states has them all. -/
theorem generatorPeriod : Obligations.GeneratorPeriod := by
  refine ⟨?_, fun k hpos hk h => ?_, fun seed h => ?_, fun seed t => ?_⟩
  · rw [lfsrAfter_eq_iterate, iterate_lfsrNext_period]
  · rw [lfsrAfter_eq_iterate] at h
    exact Function.not_isPeriodicPt_of_pos_of_lt_minimalPeriod (Nat.ne_of_gt hpos) (minimalPeriod_lfsrNext_one ▸ hk) h
  · simpa only [lfsrAfter_eq_iterate] using exists_iterate_lfsrNext_one h
  · rw [Nat.add_comm, ← outBit_lfsrAfter, lfsrAfter_eq_iterate, iterate_lfsrNext_period]

end Sys2Proof.Claims
end

section
/-! PROOF. The generator's commands LFSR_LOAD, LFSR_STEP, LFSR_BYTE and GEN_KS: what each writes, what it leaves, and when it is
rejected (40_lfsr.md R103, R105, R110 to R113). -/

namespace Sys2Proof.Machine
open Sys2Proof.Claims

/-! ### Fields that are not legal -/

theorem formatNLegal_eq_false {mbz : BitVec 28} (h : mbz ≠ 0) : formatNLegal mbz = false :=
  eq_false_of_ne_true fun hl => h ((formatNLegal_iff mbz).mp hl)

theorem formatSLegal_eq_false {mbz : BitVec 12} {seed15 : BitVec 1} (h : mbz ≠ 0 ∨ seed15 ≠ 0) :
    formatSLegal mbz seed15 = false :=
  eq_false_of_ne_true fun hl => not_and_or.mpr h ((formatSLegal_iff mbz seed15).mp hl)

theorem formatGLegal_eq_false {len : BitVec 12} {seed15 : BitVec 1} (h : 2048 < len.toNat ∨ seed15 ≠ 0) :
    formatGLegal len seed15 = false :=
  eq_false_of_ne_true fun hl => by
    obtain ⟨hle, h15⟩ := (formatGLegal_iff len seed15).mp hl
    exact h.elim (Nat.not_lt.mpr hle) fun hne => hne h15

theorem lfsrStep_zero : lfsrStep 0 = (false, 0) := rfl

theorem byteStep_zero : byteStep 0 = (0, 0) := rfl

/-! ### What the commands do -/

section
variable (s : State)

theorem exec_lfsrLoad (seed : Seed) : exec (.lfsrLoad 0 0 seed) s = .next (completed .ok { s with lfsr := seed }) := rfl

theorem exec_lfsrStep : exec (.lfsrStep 0) s =
    .next (completed .ok { s with outbit := (lfsrStep s.lfsr).1, lfsr := (lfsrStep s.lfsr).2 }) := rfl

theorem exec_lfsrByte : exec (.lfsrByte 0) s =
    .next (completed .ok { s with ksbyte := (byteStep s.lfsr).1, lfsr := (byteStep s.lfsr).2 }) := rfl

theorem exec_genKs {len : BitVec 12} (hlen : len.toNat ≤ 2048) (seed : Seed) : exec (.genKs len 0 seed) s =
    .next (completed .ok { s with
      mem := s.mem.setBlock 0x2000 (cypher seed len.toNat), lfsr := cypherState seed len.toNat, ksLen := len }) := by
  have hlegal : formatGLegal len 0 = true := (formatGLegal_iff len 0).mpr ⟨hlen, rfl⟩
  rw [exec, execGenKs, hlegal]
  rfl

/-- DECODE is rejected while KS_LEN is not 2048 (42_decode.md R161). -/
theorem exec_decodeSector_short (h : s.ksLen.toNat ≠ 2048) :
    exec (.decodeSector 0) s = .next (completed .invalidArgument s) := by
  have hbody := decodeBody_short Config.edc s h
  rw [exec_eq_complete]
  exact (complete_legal (decodeBody Config.edc) s).trans (by rw [hbody]; rfl)

end

/-- n times LFSR_BYTE leaves the state after n keystream bytes in LFSR and the last of them in KSBYTE (40_lfsr.md R112). -/
theorem runCommands_lfsrByte (n : Nat) (s : State) : ∃ t, runCommands (List.replicate n (.lfsrByte 0)) s = .next t ∧
    t.lfsr = cypherState s.lfsr n ∧ t.ksbyte = (cypher s.lfsr n).getLastD s.ksbyte := by
  induction n generalizing s with
  | zero => exact ⟨s, rfl, rfl, rfl⟩
  | succ n ih =>
    obtain ⟨t, ht, hlfsr, hbyte⟩ :=
      ih (completed .ok { s with ksbyte := (byteStep s.lfsr).1, lfsr := (byteStep s.lfsr).2 })
    refine ⟨t, ?_, hlfsr, ?_⟩
    · rw [List.replicate_succ, runCommands, exec_lfsrByte]
      exact ht
    · rw [cypher, List.getLastD_cons]
      exact hbyte

theorem getLastD_cypher_succ (seed : Seed) (m : Nat) (b : Byte) :
    (cypher seed (m + 1)).getLastD b = (cypher seed (m + 1)).getD m 0 := by
  have hlt : m < (cypher seed (m + 1)).length := by rw [cypher_length]; exact Nat.lt_succ_self m
  rw [List.getLastD_eq_getLast?, List.getLast?_eq_getElem?, cypher_length, Nat.add_sub_cancel, List.getElem?_eq_getElem hlt,
    List.getD_eq_getElem _ _ hlt, Option.getD_some]

end Sys2Proof.Machine

namespace Sys2Proof.Claims
open Sys2Proof.Machine

/-- Settles O7: the command's word is the encoded one, and its rule writes LFSR alone. -/
theorem lfsrLoadCommand : Obligations.LfsrLoadCommand :=
  ⟨fun seed => by rw [← encode_lfsrLoad, decode_encode], fun seed s => exec_lfsrLoad s seed,
   fun _ _ _ s h => exec_illFormed (i := .lfsrLoad _ _ _) rfl (formatSLegal_eq_false h) s⟩

/-- Settles O8: the step's bits are those of `lfsrNext`. -/
theorem lfsrStepCommand : Obligations.LfsrStepCommand :=
  ⟨rfl, fun s => ⟨_, exec_lfsrStep s, rfl, getLsbD_lfsrNext_zero s.lfsr, fun _ => getLsbD_lfsrNext_succ s.lfsr⟩,
   fun _ s h => exec_illFormed (i := .lfsrStep _) rfl (formatNLegal_eq_false h) s, rfl, rfl, rfl, rfl⟩

/-- Settles O9: a byte takes the top of the state and eight steps, each of which is injective. -/
theorem lfsrByteCommand : Obligations.LfsrByteCommand := by
  refine ⟨rfl, fun s => ?_, fun _ s h => exec_illFormed (i := .lfsrByte _) rfl (formatNLegal_eq_false h) s, fun seed n s => ?_,
    fun r k hk h => ?_, rfl, rfl⟩
  · rw [exec_lfsrByte, byteStep_fst, byteStep_snd]
  · obtain ⟨t, ht, hlfsr, hbyte⟩ := runCommands_lfsrByte n (completed .ok { s with lfsr := seed })
    refine ⟨t, ht, hlfsr, ?_⟩
    rintro m rfl
    exact hbyte.trans (getLastD_cypher_succ seed m _)
  · rw [byteStep_snd, byteStep_snd] at h
    have hbit := congrArg (fun x : Seed => x.getLsbD k) (lfsrAfter_injective 8 h)
    simp [hk] at hbit

/-- Settles O10: the rule writes the keystream's bytes from KSBUF[0] on, and KS_LEN with them, which DECODE reads. -/
theorem genKsCommand : Obligations.GenKsCommand := by
  refine ⟨fun len seed => ?_, fun len seed s hlen => ⟨_, exec_genKs s hlen seed, rfl, fun i hi => ?_, fun a ha => ?_⟩,
    fun _ _ _ s h => exec_illFormed (i := .genKs _ _ _) rfl (formatGLegal_eq_false h) s, fun len seed s t hlen h => ?_,
    cypherState_eq_lfsrAfter, rfl, rfl⟩
  · rw [← encode_genKs, decode_encode]
  · have hi' : i < (cypher seed len.toNat).length := by rwa [cypher_length]
    exact (get_setBlock_of_mem s.mem _ _ i hi').trans (List.getElem?_eq_getElem hi').symm
  · exact get_setBlock_of_not_mem s.mem _ _ a (by rwa [cypher_length])
  · rw [exec_genKs s hlen.le seed] at h
    cases h
    exact exec_decodeSector_short _ hlen.ne

/-- Settles O24: a shorter keystream takes its bytes from the same states, and GEN_KS writes them whatever the state. -/
theorem keystreamLengthAndPrefix : Obligations.KeystreamLengthAndPrefix := by
  refine ⟨cypher_length, fun seed n m => take_cypher seed, fun len seed s s' t t' hlen h h' i hi => ?_⟩
  obtain ⟨-, hgen, -⟩ := genKsCommand
  have hbytes : ∀ {s t}, exec (.genKs len 0 seed) s = .next t → t.mem.get (0x2000 + i) = (cypher seed len.toNat)[i]? := by
    intro s t h
    obtain ⟨u, hu, -, hwritten, -⟩ := hgen len seed s hlen
    rw [hu] at h
    cases h
    exact hwritten i hi
  rw [hbytes h, hbytes h']

/-- Settles O26: no step leaves 0, so every byte is 0. -/
theorem zeroSeedGivesZeros : Obligations.ZeroSeedGivesZeros := by
  refine ⟨lfsrStep_zero, fun n => ⟨cypher_zeroSeed n, ?_⟩, fun bs n hle => ?_, fun s hs => ⟨?_, ?_⟩, rfl⟩
  · rw [cypherState_eq_lfsrAfter, lfsrAfter_zeroSeed]
  · rw [cypher_zeroSeed, xorBytes_zeros hle]
  · simp only [exec_lfsrStep, hs, lfsrStep_zero]
  · simp only [exec_lfsrByte, hs, byteStep_zero]

end Sys2Proof.Claims
end

section
/-! PROOF. The EDC integrator for every parameter choice: each shift bit by bit, that a step is linear, and that with EDC_POLY[0] = 1
it loses nothing (41_edc.md R131 to R135, R139). -/

namespace Sys2Proof.Machine

/-! ### The order of the bits -/

section
variable (x y : Word)

theorem getLsbD_rev32 {k : Nat} (hk : k < 32) : (rev32 x).getLsbD k = x.getLsbD (31 - k) := by
  rw [rev32, BitVec.getLsbD_reverse, BitVec.getMsbD_eq_getLsbD, decide_eq_true hk, Bool.true_and]

theorem rev32_rev32 : rev32 (rev32 x) = x := BitVec.reverse_reverse_eq

theorem rev32_injective : Function.Injective rev32 := Function.LeftInverse.injective rev32_rev32

theorem rev32_xor : rev32 (x ^^^ y) = rev32 x ^^^ rev32 y := by
  apply BitVec.eq_of_getLsbD_eq
  intro k hk
  simp only [BitVec.getLsbD_xor, getLsbD_rev32 _ hk]

end

/-! ### One shift -/

section
variable (poly a b : Word)

theorem getLsbD_edcShiftLeft {k : Nat} (hk : k < 32) :
    (edcShiftLeft poly a).getLsbD k = ((decide (0 < k) && a.getLsbD (k - 1)) ^^ (a.getLsbD 31 && poly.getLsbD k)) := by
  have hshift : (a <<< 1).getLsbD k = (decide (0 < k) && a.getLsbD (k - 1)) := by
    cases k with
    | zero => simp
    | succ k => simp [hk, -BitVec.getLsbD_eq_getElem]
  rw [edcShiftLeft]
  cases a.getLsbD 31 <;> simp [hshift, -BitVec.getLsbD_eq_getElem]

theorem getLsbD_edcShiftRight {k : Nat} (hk : k < 32) :
    (edcShiftRight poly a).getLsbD k =
      ((decide (k < 31) && a.getLsbD (k + 1)) ^^ (a.getLsbD 0 && poly.getLsbD (31 - k))) := by
  have hshift : (a >>> 1).getLsbD k = (decide (k < 31) && a.getLsbD (k + 1)) := by
    rw [BitVec.getLsbD_ushiftRight, Nat.add_comm]
    obtain hlt | rfl := Nat.lt_succ_iff_lt_or_eq.mp hk
    · rw [decide_eq_true hlt, Bool.true_and]
    · exact BitVec.getLsbD_of_ge a 32 (Nat.le_refl 32)
  rw [edcShiftRight]
  cases a.getLsbD 0 <;> simp [hshift, getLsbD_rev32 poly hk, -BitVec.getLsbD_eq_getElem]

/-- A right shift is the left shift of the word read in the other bit order (41_edc.md R131). -/
theorem edcShiftRight_eq_rev32 : edcShiftRight poly a = rev32 (edcShiftLeft poly (rev32 a)) := by
  apply BitVec.eq_of_getLsbD_eq
  intro k hk
  rw [getLsbD_edcShiftRight _ _ hk, getLsbD_rev32 _ hk, getLsbD_edcShiftLeft _ _ (by omega),
    getLsbD_rev32 a (k := 31) (by decide), getLsbD_rev32 a (k := 31 - k - 1) (by omega)]
  obtain hlt | rfl := Nat.lt_succ_iff_lt_or_eq.mp hk
  · have hpos : 0 < 31 - k := by omega
    have hbit : 31 - (31 - k - 1) = k + 1 := by omega
    rw [decide_eq_true hlt, decide_eq_true hpos, hbit]
  · rfl

theorem edcShiftLeft_xor : edcShiftLeft poly (a ^^^ b) = edcShiftLeft poly a ^^^ edcShiftLeft poly b := by
  apply BitVec.eq_of_getLsbD_eq
  intro k hk
  simp only [BitVec.getLsbD_xor, getLsbD_edcShiftLeft _ _ hk, Bool.and_xor_distrib_left, Bool.and_xor_distrib_right,
    Bool.xor_assoc, Bool.xor_left_comm]

theorem edcShiftRight_xor : edcShiftRight poly (a ^^^ b) = edcShiftRight poly a ^^^ edcShiftRight poly b := by
  simp only [edcShiftRight_eq_rev32, rev32_xor, edcShiftLeft_xor]

end

/-- With EDC_POLY[0] = 1 the bit that leaves at the top can be read off bit 0 (41_edc.md R139). -/
theorem edcShiftLeft_injective {poly : Word} (h : poly.getLsbD 0 = true) : Function.Injective (edcShiftLeft poly) := by
  intro a b hab
  have hbit : ∀ k, k < 32 → (edcShiftLeft poly a).getLsbD k = (edcShiftLeft poly b).getLsbD k := fun _ _ => by rw [hab]
  have htop : a.getLsbD 31 = b.getLsbD 31 := by
    have h0 := hbit 0 (by decide)
    rw [getLsbD_edcShiftLeft _ _ (by decide), getLsbD_edcShiftLeft _ _ (by decide), h] at h0
    simpa [-BitVec.getLsbD_eq_getElem] using h0
  apply BitVec.eq_of_getLsbD_eq
  intro k hk
  obtain hk' | rfl := Nat.lt_succ_iff_lt_or_eq.mp hk
  · have hk1 := hbit (k + 1) (Nat.succ_lt_succ hk')
    rw [getLsbD_edcShiftLeft _ _ (Nat.succ_lt_succ hk'), getLsbD_edcShiftLeft _ _ (Nat.succ_lt_succ hk'), htop] at hk1
    simpa [-BitVec.getLsbD_eq_getElem] using hk1
  · exact htop

theorem edcShiftRight_injective {poly : Word} (h : poly.getLsbD 0 = true) : Function.Injective (edcShiftRight poly) := by
  have heq : edcShiftRight poly = rev32 ∘ edcShiftLeft poly ∘ rev32 := funext (edcShiftRight_eq_rev32 poly)
  rw [heq]
  exact rev32_injective.comp ((edcShiftLeft_injective h).comp rev32_injective)

/-! ### One byte -/

/-- One of the eight shifts of `STEP`, in the form EDC_REFIN gives (41_edc.md R131). -/
def edcShift (p : EdcParams) : Word → Word := if p.refin then edcShiftRight p.poly else edcShiftLeft p.poly

/-- A byte where `STEP` XORs it into the accumulator (41_edc.md R131). -/
def edcEnter (p : EdcParams) (b : Byte) : Word := if p.refin then b.setWidth 32 else b.setWidth 32 <<< 24

theorem repeatWord_eq_iterate (f : Word → Word) (n : Nat) (a : Word) : repeatWord f n a = f^[n] a := by
  induction n generalizing a with
  | zero => rfl
  | succ n ih => rw [repeatWord, ih, Function.iterate_succ_apply]

section
variable (p : EdcParams)

/-- `STEP` is the byte XORed in, and eight shifts (41_edc.md R131). -/
theorem edcStep_eq_iterate (a : Word) (b : Byte) : edcStep p a b = (edcShift p)^[8] (a ^^^ edcEnter p b) := by
  rw [edcStep, edcShift, edcEnter, repeatWord_eq_iterate, repeatWord_eq_iterate]
  split <;> rfl

theorem getLsbD_edcEnter (b : Byte) {k : Nat} (hk : k < 32) : (edcEnter p b).getLsbD k =
    if p.refin then decide (k < 8) && b.getLsbD k else decide (24 ≤ k) && b.getLsbD (k - 24) := by
  rw [edcEnter]
  cases p.refin
  · by_cases hge : 24 ≤ k
    · have hlt : k - 24 < 32 := by omega
      simp [hk, hge, hlt, -BitVec.getLsbD_eq_getElem]
    · simp [hge, Nat.lt_of_not_le hge]
  · by_cases hlt : k < 8
    · simp [hk, hlt, -BitVec.getLsbD_eq_getElem]
    · simp [hlt, Nat.le_of_not_lt hlt]

/-- The eight shifts, with where each bit of the byte enters (41_edc.md R131). -/
theorem exists_edcStep_eq_iterate (a : Word) (b : Byte) : ∃ x : Word, edcStep p a b = (edcShift p)^[8] x ∧
    ∀ k, k < 32 → x.getLsbD k =
      (a.getLsbD k ^^ if p.refin then decide (k < 8) && b.getLsbD k else decide (24 ≤ k) && b.getLsbD (k - 24)) :=
  ⟨_, edcStep_eq_iterate p a b, fun k hk => by rw [BitVec.getLsbD_xor, getLsbD_edcEnter p b hk]⟩

theorem edcShift_xor (a b : Word) : edcShift p (a ^^^ b) = edcShift p a ^^^ edcShift p b := by
  rw [edcShift]
  split
  · exact edcShiftRight_xor p.poly a b
  · exact edcShiftLeft_xor p.poly a b

theorem edcEnter_xor (b c : Byte) : edcEnter p (b ^^^ c) = edcEnter p b ^^^ edcEnter p c := by
  rw [edcEnter, edcEnter, edcEnter, BitVec.setWidth_xor, BitVec.shiftLeft_xor_distrib]
  split <;> rfl

/-- Bit k of the byte stands at bit k of the accumulator, or at bit 24 + k. -/
theorem edcEnter_injective : Function.Injective (edcEnter p) := by
  intro b c h
  apply BitVec.eq_of_getLsbD_eq
  intro k hk
  have hbit : ∀ j, j < 32 → (edcEnter p b).getLsbD j = (edcEnter p c).getLsbD j := fun _ _ => by rw [h]
  cases hr : p.refin
  · have htop := hbit (24 + k) (by omega)
    rw [getLsbD_edcEnter p b (by omega), getLsbD_edcEnter p c (by omega), hr] at htop
    simpa [-BitVec.getLsbD_eq_getElem] using htop
  · have hlow := hbit k (by omega)
    rw [getLsbD_edcEnter p b (by omega), getLsbD_edcEnter p c (by omega), hr] at hlow
    simpa [hk, -BitVec.getLsbD_eq_getElem] using hlow

/-- `STEP` is linear over GF(2) in the accumulator and the byte (41_edc.md R135). -/
theorem edcStep_xor (a b : Word) (c d : Byte) : edcStep p (a ^^^ b) (c ^^^ d) = edcStep p a c ^^^ edcStep p b d := by
  have henter : a ^^^ b ^^^ edcEnter p (c ^^^ d) = (a ^^^ edcEnter p c) ^^^ (b ^^^ edcEnter p d) := by
    rw [edcEnter_xor]
    ac_rfl
  rw [edcStep_eq_iterate, edcStep_eq_iterate, edcStep_eq_iterate, henter]
  exact Function.Semiconj₂.iterate (edcShift_xor p) 8 _ _

theorem edcStep_zero : edcStep p 0 0 = 0 := by
  have h := edcStep_xor p 0 0 0 0
  rwa [BitVec.xor_self, BitVec.xor_self, BitVec.xor_self] at h

end

/-! ### The bytes of a sequence -/

theorem edcFold_eq_foldl (p : EdcParams) (a : Word) (bs : List Byte) : edcFold p a bs = bs.foldl (edcStep p) a := by
  induction bs generalizing a with
  | nil => rfl
  | cons b bs ih => exact ih (edcStep p a b)

theorem edcFold_append (p : EdcParams) (a : Word) (x y : List Byte) : edcFold p a (x ++ y) = edcFold p (edcFold p a x) y := by
  simp only [edcFold_eq_foldl, List.foldl_append]

/-- The checksum's integrator is linear over GF(2) in its start and its bytes together (41_edc.md R135). -/
theorem edcFold_xorBytes (p : EdcParams) {x d : List Byte} (h : x.length = d.length) (a b : Word) :
    edcFold p (a ^^^ b) (xorBytes x d) = edcFold p a x ^^^ edcFold p b d := by
  induction x generalizing d a b with
  | nil =>
    obtain rfl : d = [] := List.length_eq_zero_iff.mp h.symm
    rfl
  | cons v x ih =>
    obtain ⟨w, d, rfl⟩ := List.exists_cons_of_length_eq_add_one h.symm
    exact (congrArg (edcFold p · (xorBytes x d)) (edcStep_xor p a b v w)).trans (ih (Nat.succ.inj h) _ _)

theorem edcFold_zeroBytes (p : EdcParams) (n : Nat) : edcFold p 0 (zeros n) = 0 := by
  induction n with
  | zero => rfl
  | succ n ih => exact (congrArg (edcFold p · (zeros n)) (edcStep_zero p)).trans ih

/-! ### The output transform and the checksum -/

section
variable (p : EdcParams)

/-- `FINAL` before EDC_XOROUT: the bits in the order that EDC_REFIN and EDC_REFOUT give (41_edc.md R132). -/
def edcOrder (a : Word) : Word := if p.refout != p.refin then rev32 a else a

theorem edcFinal_eq (a : Word) : edcFinal p a = edcOrder p a ^^^ p.xorout := rfl

theorem getLsbD_edcFinal (a : Word) {k : Nat} (hk : k < 32) :
    (edcFinal p a).getLsbD k = (a.getLsbD (if p.refout = p.refin then k else 31 - k) ^^ p.xorout.getLsbD k) := by
  rw [edcFinal_eq, BitVec.getLsbD_xor, edcOrder]
  by_cases h : p.refout = p.refin
  · simp [h]
  · simp [h, getLsbD_rev32 a hk, -BitVec.getLsbD_eq_getElem]

theorem edcOrder_xor (a b : Word) : edcOrder p (a ^^^ b) = edcOrder p a ^^^ edcOrder p b := by
  simp only [edcOrder]
  split
  · exact rev32_xor a b
  · rfl

theorem edcOrder_zero : edcOrder p 0 = 0 := by
  have h := edcOrder_xor p 0 0
  rwa [BitVec.xor_self, BitVec.xor_self] at h

theorem edcFinal_injective : Function.Injective (edcFinal p) := by
  intro a b h
  rw [edcFinal_eq, edcFinal_eq, BitVec.xor_left_inj, edcOrder, edcOrder] at h
  split at h
  · exact rev32_injective h
  · exact h

/-- What XORing d into the last bytes of a sequence changes in its checksum (41_edc.md R135). -/
def edcChange (d : List Byte) : Word := edcOrder p (edcFold p 0#32 d)

theorem edc_append_xorBytes (h : List Byte) {x d : List Byte} (hlen : x.length = d.length) :
    edc p (h ++ xorBytes x d) = edc p (h ++ x) ^^^ edcChange p d := by
  have hfold : edcFold p p.init (h ++ xorBytes x d) = edcFold p p.init (h ++ x) ^^^ edcFold p 0#32 d := by
    rw [edcFold_append, edcFold_append, ← edcFold_xorBytes p hlen, BitVec.xor_zero]
  rw [edc, edc, hfold, edcFinal_eq, edcFinal_eq, edcOrder_xor, edcChange]
  ac_rfl

theorem edcChange_xorBytes {x d : List Byte} (h : x.length = d.length) :
    edcChange p (xorBytes x d) = edcChange p x ^^^ edcChange p d := by
  rw [edcChange, ← BitVec.xor_self (x := 0#32), edcFold_xorBytes p h, edcOrder_xor]
  rfl

theorem edc_zeros_of_linear (hinit : p.init = 0) (hout : p.xorout = 0) (n : Nat) : edc p (zeros n) = 0 := by
  rw [edc, hinit, edcFold_zeroBytes, edcFinal_eq, hout, edcOrder_zero]
  rfl

end

theorem zeros_xorBytes (d : List Byte) : xorBytes (zeros d.length) d = d := by
  rw [xorBytes, List.zipWith_comm_of_comm BitVec.xor_comm]
  exact xorBytes_zeros (Nat.le_refl _)

theorem xor_xor_cancel (a b : Word) : (a ^^^ b) ^^^ a = b := by
  rw [BitVec.xor_comm, ← BitVec.xor_assoc, BitVec.xor_self, BitVec.zero_xor]

/-! ### With EDC_POLY[0] = 1 nothing is lost -/

section
variable {p : EdcParams} (h : p.poly.getLsbD 0 = true)
include h

theorem edcShift_injective : Function.Injective (edcShift p) := by
  rw [edcShift]
  split
  · exact edcShiftRight_injective h
  · exact edcShiftLeft_injective h

theorem edcStep_injective_acc (b : Byte) : Function.Injective fun a => edcStep p a b := by
  intro a c hac
  simp only [edcStep_eq_iterate] at hac
  exact (BitVec.xor_left_inj _).mp ((edcShift_injective h).iterate 8 hac)

theorem edcStep_injective_byte (a : Word) : Function.Injective (edcStep p a) := by
  intro b c hbc
  rw [edcStep_eq_iterate, edcStep_eq_iterate] at hbc
  exact edcEnter_injective p ((BitVec.xor_right_inj _).mp ((edcShift_injective h).iterate 8 hbc))

theorem edcFold_injective (bs : List Byte) : Function.Injective fun a => edcFold p a bs := by
  induction bs with
  | nil => exact Function.injective_id
  | cons b bs ih => exact ih.comp (edcStep_injective_acc h b)

/-- Each byte of a sequence can be read off its checksum and the other bytes (41_edc.md R139). -/
theorem edc_set_injective {x : List Byte} {i : Nat} (hi : i < x.length) : Function.Injective fun b => edc p (x.set i b) := by
  intro b c hbc
  simp only [edc, List.set_eq_take_append_cons_drop, if_pos hi, edcFold_append] at hbc
  exact edcStep_injective_byte h _ (edcFold_injective h _ (edcFinal_injective p hbc))

end

end Sys2Proof.Machine

namespace Sys2Proof.Claims
open Sys2Proof.Machine

/-- Settles O31: XORing d into a sequence changes its checksum by a linear function of d, whatever the sequence. -/
theorem edcIsAffine : Obligations.EdcIsAffine := by
  refine ⟨fun p x d hlen => ?_, fun p h x a b hx => ?_⟩
  · have hx : edc p (xorBytes x d) = edc p x ^^^ edcChange p d := edc_append_xorBytes p [] hlen
    have hd : edc p d = edc p (zeros d.length) ^^^ edcChange p d := by
      have h := edc_append_xorBytes p [] (x := zeros d.length) (d := d) List.length_replicate
      rwa [zeros_xorBytes] at h
    have haffine : edc p (xorBytes x d) = edc p x ^^^ edc p d ^^^ edc p (zeros x.length) := by
      rw [hx, hd, hlen, BitVec.xor_assoc, xor_xor_cancel]
    refine ⟨haffine, fun hinit hout => ?_⟩
    have hz := edc_zeros_of_linear p hinit hout x.length
    exact ⟨hz, by rw [haffine, hz]; exact BitVec.xor_zero⟩
  · have hkey : ∀ k, edc p (h ++ xorBytes x (cypher k 2048)) = edc p (h ++ x) ^^^ edcChange p (cypher k 2048) := fun k =>
      edc_append_xorBytes p h (hx.trans (cypher_length k 2048).symm)
    rw [hkey, hkey, hkey, cypher_xor, edcChange_xorBytes p (by rw [cypher_length, cypher_length]), BitVec.xor_assoc _ _ (edc p _),
      xor_xor_cancel, BitVec.xor_assoc]

/-- Settles O32: the checksum is injective in each byte, and a flipped bit makes another byte. -/
theorem singleBitFlipChangesChecksum : Obligations.SingleBitFlipChangesChecksum := by
  intro p x i k hi hpoly hk heq
  have hself : edc p (x.set i x[i]) = edc p x := congrArg (edc p) (List.set_getElem_self hi)
  have hbyte : x[i] ^^^ BitVec.twoPow 8 k = x[i] := edc_set_injective hpoly hi (heq.trans hself.symm)
  have hbit := congrArg (fun b : Byte => b.getLsbD k) hbyte
  simp [hk] at hbit

end Sys2Proof.Claims
end

section
/-! PROOF. The commands EDC_CLEAR, EDC_BYTE and EDC_SECTOR: what each writes, what it leaves, and when it is rejected
(41_edc.md R131 to R138). -/

namespace Sys2Proof.Machine
open Sys2Proof.Claims

theorem formatBLegal_eq_false {mbz : BitVec 20} (h : mbz ≠ 0) : formatBLegal mbz = false :=
  eq_false_of_ne_true fun hl => h ((formatBLegal_iff mbz).mp hl)

/-! ### SECBUF as the checksum reads it -/

theorem slice_bytesAt (s : State) {base n a b : Nat} (hb : b ≤ n) :
    slice (bytesAt s base n) a b = bytesAt s (base + a) (b - a) := by
  refine List.ext_getElem ?_ fun i _ _ => ?_
  · simp only [slice, List.length_take, List.length_drop, length_bytesAt]
    omega
  · simp [slice, bytesAt, Nat.add_assoc]

theorem bytesAt_append (s : State) (base m n : Nat) : bytesAt s base m ++ bytesAt s (base + m) n = bytesAt s base (m + n) := by
  simp [bytesAt, List.range_add, Nat.add_assoc]

theorem bytesAt_eq_zeros {s : State} {base n : Nat} (h : ∀ i, i < n → byteAt s (base + i) = 0) :
    bytesAt s base n = zeros n := by
  rw [bytesAt, List.map_congr_left fun i hi => h i (List.mem_range.mp hi), List.map_const', List.length_range, zeros]

theorem headerBytes_append_payloadBytes (s : State) : headerBytes s ++ payloadBytes s = bytesAt s 0x1000 2060 :=
  bytesAt_append s 0x1000 12 2048

/-- The bytes under the checksum are the header and the payload (41_edc.md R138). -/
theorem slice_secbuf_edcSpan (s : State) : slice (secbuf s) 0 edcSpan = headerBytes s ++ payloadBytes s :=
  (slice_bytesAt s (by decide)).trans (headerBytes_append_payloadBytes s).symm

theorem be32_eq_le32 (a b c d : Byte) : be32 [a, b, c, d] = le32 d c b a := by
  rw [le32, ← BitVec.setWidth_eq (a ++ b ++ c ++ d), BitVec.setWidth_append_append_append_eq_shiftLeft_setWidth_or]
  simp [be32, BitVec.shiftLeft_or_distrib, ← BitVec.shiftLeft_add]

theorem trailing_secbuf (s : State) : trailing (secbuf s) = trailerValue s := by
  rw [trailing, secbuf, slice_bytesAt s (Nat.le_refl secLen), trailerValue_eq_le32]
  exact be32_eq_le32 _ _ _ _

/-! ### What the commands do -/

/-- A command that is not rejected completes with the result of its rule. -/
theorem exec_of_bodyOf {i : Instr} {s t : State} {e : Err} (hl : (i.wf || i.isReserved) = true) (hb : bodyOf i s = (t, e)) :
    exec i s = .next (completed e t) := by
  rw [exec_eq_complete, hl, complete_legal, hb]
  rfl

section
variable (s : State)

theorem exec_edcClear : exec (.edcClear 0) s = .next (completed .ok { s with edcAcc := Config.edc.init }) := rfl

theorem exec_edcByte (byte : Byte) :
    exec (.edcByte 0 byte) s = .next (completed .ok { s with edcAcc := edcStep Config.edc s.edcAcc byte }) := rfl

theorem edcSectorBody_eq (p : EdcParams) : edcSectorBody p s = ({ s with
    edcAcc := edcFold p p.init (headerBytes s ++ payloadBytes s)
    matched := edc p (headerBytes s ++ payloadBytes s) == trailerValue s }, .ok) := by
  rw [edcSectorBody, sectorAcc, slice_secbuf_edcSpan, trailing_secbuf]
  rfl

theorem exec_edcSector : exec (.edcSector 0) s = .next (completed .ok { s with
    edcAcc := edcFold Config.edc Config.edc.init (headerBytes s ++ payloadBytes s)
    matched := edc Config.edc (headerBytes s ++ payloadBytes s) == trailerValue s }) :=
  exec_of_bodyOf rfl (edcSectorBody_eq s Config.edc)

end

/-- EDC_BYTE over the bytes of a sequence folds them into the accumulator (41_edc.md R133, R137). -/
theorem runCommands_edcByte (bs : List Byte) (s : State) :
    ∃ t, runCommands (bs.map fun b => .edcByte 0 b) s = .next t ∧ t.edcAcc = edcFold Config.edc s.edcAcc bs := by
  induction bs generalizing s with
  | nil => exact ⟨s, rfl, rfl⟩
  | cons b bs ih => exact ih (completed .ok { s with edcAcc := edcStep Config.edc s.edcAcc b })

end Sys2Proof.Machine

namespace Sys2Proof.Claims
open Sys2Proof.Machine

/-- Settles O11: the rule writes EDC_ACC alone, with a value that does not depend on the state. -/
theorem edcClearCommand : Obligations.EdcClearCommand := by
  refine ⟨rfl, fun s => ⟨_, exec_edcClear s, rfl, rfl⟩,
    fun _ s h => exec_illFormed (i := .edcClear _) rfl (formatNLegal_eq_false h) s, fun s t u ht hu => ?_, fun _ => rfl,
    by decide⟩
  rw [exec_edcClear] at ht hu
  cases ht
  cases hu
  rfl

/-- Settles O12: a step is the byte XORed in and eight shifts, and a run of EDC_BYTE is a fold of steps. -/
theorem edcByteCommand : Obligations.EdcByteCommand := by
  refine ⟨fun byte => by rw [← encode_edcByte, decode_encode], fun byte s => exec_edcByte s byte,
    fun _ _ s h => exec_illFormed (i := .edcByte _ _) rfl (formatBLegal_eq_false h) s, fun bs s => ?_, edcStep_zero cand,
    by decide, fun p a b hr => ?_, fun p a b hr => ?_,
    fun poly a k hk => ⟨getLsbD_edcShiftLeft poly a hk, getLsbD_edcShiftRight poly a hk⟩,
    fun p a _ hk => getLsbD_edcFinal p a hk, fun p bs => ?_, by decide +kernel, by decide +kernel, by decide +kernel⟩
  · obtain ⟨t, ht, hacc⟩ := runCommands_edcByte bs (completed .ok { s with edcAcc := Config.edc.init })
    exact ⟨t, ht, congrArg (edcFinal Config.edc) hacc⟩
  · simpa only [edcShift, hr, Bool.false_eq_true, if_false] using exists_edcStep_eq_iterate p a b
  · simpa only [edcShift, hr, if_true] using exists_edcStep_eq_iterate p a b
  · rw [edc, edcFold_eq_foldl]

/-- Settles O13: SECBUF[0:2060] is the header and the payload, and its last four bytes the trailer. -/
theorem edcSectorCommand : Obligations.EdcSectorCommand := by
  refine ⟨rfl, fun s => ⟨_, exec_edcSector s, by simp only [completed, beq_iff_eq, and_self]⟩,
    fun _ s h => exec_illFormed (i := .edcSector _) rfl (formatNLegal_eq_false h) s, fun s hzero => ?_⟩
  have hspan : headerBytes s ++ payloadBytes s = zeros 2060 := by
    rw [headerBytes_append_payloadBytes]
    exact bytesAt_eq_zeros fun i hi => hzero _ (by omega) (by omega)
  have htrailer : trailerValue s = 0 := by
    rw [trailerValue_eq_le32, hzero _ (by decide) (by decide), hzero _ (by decide) (by decide),
      hzero _ (by decide) (by decide), hzero _ (by decide) (by decide)]
    rfl
  have hacc : edcFold cand cand.init (zeros 2060) = 0 := edcFold_zeroBytes cand 2060
  have hsum : edc cand (zeros 2060) = 0 := edc_zeros_of_linear cand rfl rfl 2060
  rw [edcSectorBody_eq, hspan, htrailer, hacc, hsum]
  rfl

end Sys2Proof.Claims
end

section
/-! PROOF. The results of EDC_SECTOR, DECODE and SEARCH come from the buffers, KS_LEN and SEED_VALID alone (41_edc.md R134,
43_search_session.md R183). -/

namespace Sys2Proof.Machine
open Sys2Proof.Claims

/-! ### The outcomes of DECODE and SEARCH -/

section
variable {s : State}

theorem exec_decodeSector_match (h : s.ksLen.toNat = 2048) (hm : decodeMatches Config.edc (secbuf s) (ksbuf s) = true) :
    exec (.decodeSector 0) s = .next (completed .ok
      { storeBytes outBase (candidate (secbuf s) (ksbuf s) ++ slice (secbuf s) edcSpan secLen) s with
        edcAcc := decodeAcc Config.edc (secbuf s) (ksbuf s), matched := true }) :=
  exec_of_bodyOf rfl (decodeBody_match Config.edc s h hm)

theorem exec_decodeSector_mismatch (h : s.ksLen.toNat = 2048) (hm : decodeMatches Config.edc (secbuf s) (ksbuf s) = false) :
    exec (.decodeSector 0) s = .next (completed .badChecksum
      { s with edcAcc := decodeAcc Config.edc (secbuf s) (ksbuf s), matched := false }) :=
  exec_of_bodyOf rfl (decodeBody_mismatch Config.edc s h hm)

theorem exec_search_inSession (h : s.seedValid = true) : exec (.search 0) s = .next (completed .invalidArgument s) :=
  exec_of_bodyOf rfl (searchBody_inSession Config.edc s h)

theorem exec_search_found {seed : Seed} (h : s.seedValid = false) (hf : searchFn Config.edc (secbuf s) = some seed) :
    exec (.search 0) s = .next (completed .ok { acceptSeed seed s with matched := true, scanCount := seed.setWidth 16 + 1 }) :=
  exec_of_bodyOf rfl (searchBody_found Config.edc s seed h hf)

theorem exec_search_notFound (h : s.seedValid = false) (hf : searchFn Config.edc (secbuf s) = none) :
    exec (.search 0) s = .next (completed .seedNotFound { s with matched := false, scanCount := 0x8000 }) :=
  exec_of_bodyOf rfl (searchBody_notFound Config.edc s h hf)

end

/-! ### Two states with the same sample -/

/-- The two states agree in the buffers, the draws of their unwritten bytes, KS_LEN, SEED_VALID and MATCH. -/
structure SameSample (s s' : State) : Prop where
  mem : s.mem = s'.mem
  draws : s.draws = s'.draws
  ksLen : s.ksLen = s'.ksLen
  seedValid : s.seedValid = s'.seedValid
  matched : s.matched = s'.matched

/-- What two completions of a command agree in when its results come from the sample. -/
structure SameResults (i : Instr) (t t' : State) : Prop where
  err : t.err = t'.err
  matched : t.matched = t'.matched
  mem : t.mem = t'.mem
  ksLen : t.ksLen = t'.ksLen
  seedValid : t.seedValid = t'.seedValid
  edcAcc : t.err = .ok ∨ t.err = .badChecksum → i ≠ .search 0 → t.edcAcc = t'.edcAcc
  found : i = .search 0 → t.err = .ok → t.seed = t'.seed ∧ t.scanCount = t'.scanCount

section
variable {s s' t t' : State} (h : SameSample s s')
include h

theorem sameSample_secbuf : secbuf s = secbuf s' := bytesAt_congr s s' secBase secLen h.mem h.draws

theorem sameSample_ksbuf : ksbuf s = ksbuf s' := bytesAt_congr s s' ksBase 2048 h.mem h.draws

/-- A completion that leaves all but STATUS as it is, with an error other than BAD_CHECKSUM. -/
theorem sameResults_unchanged {i : Instr} {e : Err} (hok : e ≠ .ok) (hbad : e ≠ .badChecksum) :
    SameResults i (completed e s) (completed e s') where
  err := rfl
  matched := h.matched
  mem := h.mem
  ksLen := h.ksLen
  seedValid := h.seedValid
  edcAcc he := (he.elim hok hbad).elim
  found _ he := (hok he).elim

/-- A completion that records a checksum and a comparison, and is no SEARCH. -/
theorem sameResults_checksum {i : Instr} (hi : i ≠ .search 0) (e : Err) (a : Word) (m : Bool) :
    SameResults i (completed e { s with edcAcc := a, matched := m }) (completed e { s' with edcAcc := a, matched := m }) where
  err := rfl
  matched := rfl
  mem := h.mem
  ksLen := h.ksLen
  seedValid := h.seedValid
  edcAcc _ _ := rfl
  found hs := (hi hs).elim

theorem sameSample_storeBytes (base : Nat) (bs : List Byte) : SameSample (storeBytes base bs s) (storeBytes base bs s') :=
  { h with mem := congrArg (Memory.setBlock · base bs) h.mem }

theorem sameResults_edcSector (ht : exec (.edcSector 0) s = .next t) (ht' : exec (.edcSector 0) s' = .next t') :
    SameResults (.edcSector 0) t t' := by
  have hbytes : headerBytes s ++ payloadBytes s = headerBytes s' ++ payloadBytes s' := by
    rw [← slice_secbuf_edcSpan, sameSample_secbuf h, slice_secbuf_edcSpan]
  have htrailer : trailerValue s = trailerValue s' := by
    rw [← trailing_secbuf, sameSample_secbuf h, trailing_secbuf]
  rw [exec_edcSector, hbytes, htrailer] at ht
  rw [exec_edcSector] at ht'
  cases ht
  cases ht'
  exact sameResults_checksum h (by decide) .ok _ _

theorem sameResults_decodeSector (ht : exec (.decodeSector 0) s = .next t) (ht' : exec (.decodeSector 0) s' = .next t') :
    SameResults (.decodeSector 0) t t' := by
  have hsec := sameSample_secbuf h
  have hks := sameSample_ksbuf h
  by_cases hlen : s.ksLen.toNat = 2048
  · have hlen' : s'.ksLen.toNat = 2048 := h.ksLen ▸ hlen
    cases hm : decodeMatches Config.edc (secbuf s) (ksbuf s)
    · rw [exec_decodeSector_mismatch hlen hm] at ht
      rw [exec_decodeSector_mismatch hlen' (by rwa [← hsec, ← hks]), ← hsec, ← hks] at ht'
      cases ht
      cases ht'
      exact sameResults_checksum h (by decide) .badChecksum _ _
    · rw [exec_decodeSector_match hlen hm] at ht
      rw [exec_decodeSector_match hlen' (by rwa [← hsec, ← hks]), ← hsec, ← hks] at ht'
      cases ht
      cases ht'
      exact sameResults_checksum (sameSample_storeBytes h outBase _) (by decide) .ok _ _
  · have hlen' : s'.ksLen.toNat ≠ 2048 := h.ksLen ▸ hlen
    rw [exec_decodeSector_short s hlen] at ht
    rw [exec_decodeSector_short s' hlen'] at ht'
    cases ht
    cases ht'
    exact sameResults_unchanged h nofun nofun

theorem sameResults_search (ht : exec (.search 0) s = .next t) (ht' : exec (.search 0) s' = .next t') :
    SameResults (.search 0) t t' := by
  have hsec := sameSample_secbuf h
  cases hv : s.seedValid
  · have hv' : s'.seedValid = false := h.seedValid ▸ hv
    cases hf : searchFn Config.edc (secbuf s) with
    | none =>
      rw [exec_search_notFound hv hf] at ht
      rw [exec_search_notFound hv' (hsec ▸ hf)] at ht'
      cases ht
      cases ht'
      exact ⟨rfl, rfl, h.mem, h.ksLen, h.seedValid, nofun, nofun⟩
    | some seed =>
      rw [exec_search_found hv hf] at ht
      rw [exec_search_found hv' (hsec ▸ hf)] at ht'
      cases ht
      cases ht'
      exact ⟨rfl, rfl, congrArg (Memory.setBlock · ksBase (cypher seed ksMax)) h.mem, rfl, rfl, fun _ hi => (hi rfl).elim,
        fun _ _ => ⟨rfl, rfl⟩⟩
  · rw [exec_search_inSession hv] at ht
    rw [exec_search_inSession (h.seedValid ▸ hv)] at ht'
    cases ht
    cases ht'
    exact sameResults_unchanged h nofun nofun

end

end Sys2Proof.Machine

namespace Sys2Proof.Claims
open Sys2Proof.Machine

/-- Settles O23: each rule computes its results from SECBUF, KSBUF, KS_LEN and SEED_VALID. -/
theorem resultsIgnoreEarlierRegisters : Obligations.ResultsIgnoreEarlierRegisters := by
  intro s s' t t' i hi hmem hdraws hlen hvalid hmatched ht ht'
  have h : SameSample s s' := ⟨hmem, hdraws, hlen, hvalid, hmatched⟩
  have hres : SameResults i t t' := by
    obtain rfl | rfl | rfl := hi
    · exact sameResults_edcSector h ht ht'
    · exact sameResults_decodeSector h ht ht'
    · exact sameResults_search h ht ht'
  exact ⟨hres.err, hres.matched, hres.mem, hres.ksLen, hres.seedValid, hres.edcAcc, hres.found⟩

end Sys2Proof.Claims
end

section
/-! PROOF. DECODE: the candidate, the DecodedSector and the checksum by the buffers' bytes, its outcomes, and that decoding undoes
scrambling (42_decode.md R160 to R164). -/

namespace Sys2Proof.Machine
open Sys2Proof.Claims

/-! ### The parts of a sector image -/

/-- The slice of a sequence from a prefix's end to a suffix's start (00_scope.md R7). -/
theorem slice_append_append {as bs : List Byte} (cs : List Byte) {a b : Nat} (ha : as.length = a) (hb : bs.length = b - a) :
    slice (as ++ bs ++ cs) a b = bs := by
  rw [slice, List.append_assoc, List.drop_left' ha, List.take_left' hb]

theorem be32_be32Bytes (v : Word) : be32 (be32Bytes v) = v :=
  calc be32 (be32Bytes v)
    _ = v.extractLsb' 24 8 ++ v.extractLsb' 16 8 ++ v.extractLsb' 8 8 ++ v.extractLsb' 0 8 := be32_eq_le32 _ _ _ _
    _ = v := by
      rw [BitVec.extractLsb'_append_extractLsb'_eq_extractLsb' (by rfl : 24 = 16 + 8),
        BitVec.extractLsb'_append_extractLsb'_eq_extractLsb' (by rfl : 16 = 8 + 8),
        BitVec.extractLsb'_append_extractLsb'_eq_extractLsb' (by rfl : 8 = 0 + 8)]
      exact extract_whole v

/-- XORing the same keystream in twice gives the plaintext back (42_decode.md R162). -/
theorem xorBytes_xorBytes_cancel {x ks : List Byte} (h : x.length ≤ ks.length) : xorBytes (xorBytes x ks) ks = x := by
  refine List.ext_getElem ?_ fun i _ _ => ?_
  · simp [xorBytes, h]
  · simp [xorBytes]

section
variable {hdr payload trailer : List Byte} (hhdr : hdr.length = 12) (hpayload : payload.length = 2048)
include hhdr hpayload

theorem candidate_append (ks : List Byte) : candidate (hdr ++ payload ++ trailer) ks = hdr ++ xorBytes payload ks := by
  have hslice : slice (hdr ++ payload ++ trailer) 0 hdrLen = hdr := by
    rw [List.append_assoc]
    exact slice_append_append (as := []) _ rfl hhdr
  rw [candidate, hslice, slice_append_append trailer hhdr hpayload]

theorem slice_append_trailer (htrailer : trailer.length = 4) : slice (hdr ++ payload ++ trailer) edcSpan secLen = trailer := by
  have hspan : (hdr ++ payload).length = edcSpan := by rw [List.length_append, hhdr, hpayload]
  rw [← List.append_nil (hdr ++ payload ++ trailer)]
  exact slice_append_append [] hspan htrailer

/-- An image decodes to its candidate and trailer when the trailer is the candidate's checksum (42_decode.md R160). -/
theorem decodeFn_append (p : EdcParams) {ks : List Byte} {v : Word} (hv : edc p (hdr ++ xorBytes payload ks) = v) :
    (decodeFn p (hdr ++ payload ++ be32Bytes v) ks).1 = some (hdr ++ xorBytes payload ks ++ be32Bytes v) := by
  have htrailer := slice_append_trailer (trailer := be32Bytes v) hhdr hpayload rfl
  have hm : decodeMatches p (hdr ++ payload ++ be32Bytes v) ks = true := by
    rw [decodeMatches, decodeAcc, candidate_append hhdr hpayload, trailing, htrailer, be32_be32Bytes]
    exact beq_iff_eq.mpr hv
  rw [decodeFn, if_pos hm, candidate_append hhdr hpayload, htrailer]

end

/-! ### The buffers as DECODE reads them -/

section
variable (s : State)

/-- `hdr ++ P` of the sample in SECBUF under KSBUF (42_decode.md R160). -/
theorem candidate_secbuf_ksbuf : candidate (secbuf s) (ksbuf s) = headerBytes s ++ plainBytes s := by
  have hplain : xorBytes (bytesAt s 0x100C 2048) (ksbuf s) = plainBytes s := by
    simp only [xorBytes, ksbuf, bytesAt, List.zipWith_map, List.zipWith_self]
    rfl
  rw [candidate, secbuf, slice_bytesAt s (by decide), slice_bytesAt s (by decide)]
  exact congrArg (headerBytes s ++ ·) hplain

theorem slice_secbuf_trailer : slice (secbuf s) edcSpan secLen = trailerBytes s := slice_bytesAt s (Nat.le_refl secLen)

theorem decodeMatches_secbuf_ksbuf (p : EdcParams) :
    decodeMatches p (secbuf s) (ksbuf s) = (edc p (headerBytes s ++ plainBytes s) == trailerValue s) := by
  rw [decodeMatches, decodeAcc, candidate_secbuf_ksbuf, trailing_secbuf]
  rfl

/-- The DecodedSector of the sample in SECBUF under KSBUF (42_decode.md R160). -/
def decodedBytes : List Byte := headerBytes s ++ plainBytes s ++ trailerBytes s

theorem length_decodedBytes : (decodedBytes s).length = 2064 := by
  simp [decodedBytes, headerBytes, plainBytes, trailerBytes]

end

/-! ### The outcomes of DECODE by the buffers' bytes -/

section
variable {s : State} (hlen : s.ksLen = 2048)
include hlen

/-- DECODE with a matching checksum. -/
theorem exec_decodeSector_ok (hsum : edc Config.edc (headerBytes s ++ plainBytes s) = trailerValue s) :
    exec (.decodeSector 0) s = .next (completed .ok { storeBytes outBase (decodedBytes s) s with
      edcAcc := edcFold Config.edc Config.edc.init (headerBytes s ++ plainBytes s), matched := true }) := by
  have hm : decodeMatches Config.edc (secbuf s) (ksbuf s) = true := by
    rw [decodeMatches_secbuf_ksbuf]
    exact beq_iff_eq.mpr hsum
  rw [exec_decodeSector_match (congrArg BitVec.toNat hlen) hm, decodeAcc, candidate_secbuf_ksbuf, slice_secbuf_trailer]
  rfl

/-- DECODE with a checksum that does not match. -/
theorem exec_decodeSector_badChecksum (hsum : edc Config.edc (headerBytes s ++ plainBytes s) ≠ trailerValue s) :
    exec (.decodeSector 0) s = .next (completed .badChecksum { s with
      edcAcc := edcFold Config.edc Config.edc.init (headerBytes s ++ plainBytes s), matched := false }) := by
  have hm : decodeMatches Config.edc (secbuf s) (ksbuf s) = false := by
    rw [decodeMatches_secbuf_ksbuf]
    exact beq_eq_false_iff_ne.mpr hsum
  rw [exec_decodeSector_mismatch (congrArg BitVec.toNat hlen) hm, decodeAcc, candidate_secbuf_ksbuf]

end

end Sys2Proof.Machine

namespace Sys2Proof.Claims
open Sys2Proof.Machine

/-- Settles O14: the candidate is the header and the payload XOR KSBUF, and the DecodedSector fills OUTBUF. -/
theorem decodeCommand : Obligations.DecodeCommand := by
  refine ⟨rfl, fun s hlen hsum => ⟨_, exec_decodeSector_ok hlen hsum, rfl, fun i hi => ?_, fun a ha => ?_⟩,
    fun s => exec_decodeSector_badChecksum, fun s hne => exec_decodeSector_short s fun h => hne (BitVec.eq_of_toNat_eq h),
    fun _ s h => exec_illFormed (i := .decodeSector _) rfl (formatNLegal_eq_false h) s⟩
  · have hi' : i < (decodedBytes s).length := by rwa [length_decodedBytes]
    exact (get_setBlock_of_mem s.mem _ _ i hi').trans (List.getElem?_eq_getElem hi').symm
  · exact get_setBlock_of_not_mem s.mem _ _ a (by rwa [length_decodedBytes])

/-- Settles O33: the candidate is the plaintext again, so its checksum is the one the sector carries. -/
theorem decodeUndoesScrambling : Obligations.DecodeUndoesScrambling := by
  intro p h plain seed hh hplain
  have hcancel : xorBytes (xorBytes plain (cypher seed 2048)) (cypher seed 2048) = plain :=
    xorBytes_xorBytes_cancel (by rw [hplain, cypher_length])
  have hscrambled : (xorBytes plain (cypher seed 2048)).length = 2048 := by simp [xorBytes, hplain, cypher_length]
  have hsum := congrArg (fun x => edc p (h ++ x)) hcancel
  rw [decodeFn_append hh hscrambled p hsum, hcancel]

/-- Settles O34: of DECODE's outcomes only the matching one has the code OK, and only it writes bytes, all of them OUTBUF's. -/
theorem noSilentDowngrade : Obligations.NoSilentDowngrade := by
  intro s t ht
  obtain ⟨-, hmatch, hmismatch, hshort, -⟩ := decodeCommand
  by_cases hlen : s.ksLen = 2048
  · by_cases hsum : edc Config.edc (headerBytes s ++ plainBytes s) = trailerValue s
    · obtain ⟨u, hu, hstate, hout, hkept⟩ := hmatch s hlen hsum
      obtain rfl : u = t := Host.Outcome.next.inj (hu.symm.trans ht)
      have herr : u.err = .ok := congrArg State.err hstate
      have hmatched : u.matched = true := congrArg State.matched hstate
      have hseed : u.seed = s.seed := (congrArg State.seed hstate :)
      have hvalid : u.seedValid = s.seedValid := (congrArg State.seedValid hstate :)
      have hkslen : u.ksLen = s.ksLen := (congrArg State.ksLen hstate :)
      exact ⟨fun _ => ⟨hmatched, hlen, hsum, hout⟩, fun hne => (hne herr).elim, fun _ => iff_of_true herr hmatched,
        hseed, hvalid, hkslen, fun a _ h2 => hkept a (by omega)⟩
    · rw [hmismatch s hlen hsum] at ht
      cases ht
      exact ⟨nofun, fun _ => rfl, fun _ => iff_of_false nofun nofun, rfl, rfl, rfl, fun _ _ _ => rfl⟩
  · rw [hshort s hlen] at ht
    cases ht
    exact ⟨nofun, fun _ => rfl, fun h => (hlen h).elim, rfl, rfl, rfl, fun _ _ _ => rfl⟩

end Sys2Proof.Claims
end

section
/-! PROOF. A step and the session seed: only an accepted seed starts a session, and only CLEAR_SESSION and the release of RST end one
(43_search_session.md R182, R186, R187, R189). -/

namespace Sys2Proof.Machine

/-- The session as a step finds and leaves it: SEED_VALID and SEED are as they were. -/
def SameSession (s t : State) : Prop := t.seedValid = s.seedValid ∧ t.seed = s.seed

/-- Outside a session the step to t accepts a seed, by SEARCH or by the SET_SEED of that seed (43_search_session.md R182, R186). -/
def AcceptsSeed (i : Instr) (s t : State) : Prop :=
  s.seedValid = false ∧ t.seedValid = true ∧ t.err = .ok ∧ (i = .search 0 ∨ i = .setSeed 0 0 t.seed)

/-- The step to t ends the session, if there is one, by CLEAR_SESSION (43_search_session.md R187). -/
def ClearsSession (i : Instr) (t : State) : Prop := i = .clearSession 0 ∧ t.seedValid = false ∧ t.seed = 0

/-! ### The completion step of each command -/

theorem searchBody_session (s : State) :
    SameSession s (searchBody Config.edc s).1 ∨
    (s.seedValid = false ∧ (searchBody Config.edc s).1.seedValid = true ∧ (searchBody Config.edc s).2 = .ok) := by
  cases hv : s.seedValid
  · cases hf : searchFn Config.edc (secbuf s) with
    | none => rw [searchBody_notFound _ s hv hf]; exact .inl ⟨rfl, rfl⟩
    | some seed => rw [searchBody_found _ s seed hv hf]; exact .inr ⟨rfl, rfl, rfl⟩
  · rw [searchBody_inSession _ s hv]; exact .inl ⟨rfl, rfl⟩

theorem setSeedBody_session (seed : Seed) (s : State) :
    SameSession s (setSeedBody seed s).1 ∨
    (s.seedValid = false ∧ setSeedBody seed s = (acceptSeed seed s, .ok)) := by
  cases hv : s.seedValid
  · exact .inr ⟨rfl, setSeedBody_accepts seed s hv⟩
  · rw [setSeedBody_inSession seed s hv]; exact .inl ⟨rfl, rfl⟩

/-- What a completion step does to the session. -/
theorem completedState_session (i : Instr) (s : State) :
    SameSession s (completedState i s) ∨ AcceptsSeed i s (completedState i s) ∨ ClearsSession i (completedState i s) := by
  rcases completedState_cases i s with ⟨hl, e⟩ | e <;> rw [e]
  · cases i with
    | search mbz =>
      obtain rfl := (formatNLegal_iff mbz).mp ((Bool.or_false _).symm.trans hl)
      rcases searchBody_session s with h | ⟨h, hv, he⟩
      · exact .inl h
      · exact .inr (.inl ⟨h, hv, he, .inl rfl⟩)
    | setSeed mbz seed15 seed =>
      obtain ⟨rfl, rfl⟩ := (formatSLegal_iff mbz seed15).mp ((Bool.or_false _).symm.trans hl)
      rcases setSeedBody_session seed s with h | ⟨h, e⟩
      · exact .inl h
      · rw [bodyOf, e]
        exact .inr (.inl ⟨h, rfl, rfl, .inr rfl⟩)
    | clearSession mbz =>
      obtain rfl := (formatNLegal_iff mbz).mp ((Bool.or_false _).symm.trans hl)
      exact .inr (.inr ⟨rfl, rfl, rfl⟩)
    | decodeSector mbz =>
      obtain ⟨m, a, b, e⟩ := decodeBody_fields Config.edc s
      rw [bodyOf, e]
      exact .inl ⟨rfl, rfl⟩
    | edcSector mbz =>
      obtain ⟨a, b, e⟩ := edcSectorBody_fields Config.edc s
      rw [bodyOf, e]
      exact .inl ⟨rfl, rfl⟩
    | nop | lfsrLoad | lfsrStep | lfsrByte | genKs | edcClear | edcByte | reserved => exact .inl ⟨rfl, rfl⟩
  · exact .inl ⟨rfl, rfl⟩

/-! ### The step -/

/-- What a step does to the session: nothing, but for a completion step that accepts a seed or clears the session, and for the release of
RST (43_search_session.md R189). -/
theorem step_session {s t : State} (h : step s = .next t) :
    SameSession s t ∨
    (s.rst = false ∧ t.phase = .idle ∧ ∃ c, s.phase = .busy c ∧ (AcceptsSeed (decode c) s t ∨ ClearsSession (decode c) t)) ∨
    (s.rst = true ∧ t.seedValid = false ∧ t.seed = 0) := by
  cases hr : s.rst
  · cases step_released hr h with
    | complete c ins hp hi =>
      have hphase := completedState_phase (decode c) { s with inputs := ins }
      exact (completedState_session (decode c) { s with inputs := ins }).imp_right fun h => .inl ⟨rfl, hphase, c, hp, h⟩
    | quiet | raise | issue | status | irqEn | store | drop => exact .inl ⟨rfl, rfl⟩
  · rcases step_underReset hr h with e | ⟨rest, -, rfl⟩
    · rw [e]; exact .inl ⟨rfl, rfl⟩
    · exact .inr (.inr ⟨rfl, rfl, rfl⟩)

/-! ### The words -/

theorem eq_encode_of_decode_eq {c : Word} {i : Instr} (h : decode c = i) : c = encode i := by rw [← h, encode_decode]

end Sys2Proof.Machine

namespace Sys2Proof.Claims
open Sys2Proof.Machine

/-- Settles O55: by what a step can do to the session, with the latched word read back from the command it decodes to. -/
theorem sessionSeedIsSingleAssignment : Obligations.SessionSeedIsSingleAssignment := by
  refine ⟨fun s t hv h => ?_, fun s t hv h => ?_⟩
  · rcases step_session h with ⟨hvalid, hseed⟩ | ⟨hr, -, c, hp, ⟨hv', -⟩ | ⟨hc, hvalid, hseed⟩⟩ | ⟨hr, hvalid, hseed⟩
    · exact .inl ⟨hvalid.trans hv, hseed⟩
    · cases hv.symm.trans hv'
    · exact .inr ⟨hvalid, hseed, .inr ⟨hr, hp.trans (congrArg Phase.busy (eq_encode_of_decode_eq hc))⟩⟩
    · exact .inr ⟨hvalid, hseed, .inl hr⟩
  · rcases step_session h with
      ⟨hvalid, hseed⟩ | ⟨hr, hphase, c, hp, ⟨-, hvalid, herr, hc⟩ | ⟨-, hvalid, hseed⟩⟩ | ⟨-, hvalid, hseed⟩
    · exact .inl ⟨hvalid.trans hv, .inl hseed⟩
    · refine .inr ⟨hr, hvalid, herr, hphase, c, hp, hc.imp eq_encode_of_decode_eq fun hc => ?_⟩
      rw [eq_encode_of_decode_eq hc, encode_setSeed]
    · exact .inl ⟨hvalid, .inr hseed⟩
    · exact .inl ⟨hvalid, .inr hseed⟩

end Sys2Proof.Claims
end

section
/-! PROOF. The search for the lowest passing seed, and the commands SEARCH, SET_SEED, CLEAR_SESSION and NOP: what each writes, what it
leaves, and when it is rejected (43_search_session.md R180 to R188). -/

namespace Sys2Proof.Machine
open Sys2Proof.Claims

/-! ### A trial -/

/-- A trial is a checksum comparison (43_search_session.md R180). -/
theorem trial_iff (p : EdcParams) (img : List Byte) (k : Seed) :
    trial p img k = true ↔ edc p (candidate img (cypher k 2048)) = trailing img := by
  have hmatch : trial p img k = decodeMatches p img (cypher k 2048) := by
    rw [trial, decodeFn]
    cases decodeMatches p img (cypher k 2048) <;> rfl
  rw [hmatch, decodeMatches, beq_iff_eq]
  rfl

/-- `hdr ++ P` of the sample in SECBUF under a seed's keystream (43_search_session.md R180). -/
theorem candidate_secbuf_cypher (s : State) (k : Seed) :
    candidate (secbuf s) (cypher k 2048) = headerBytes s ++ trialBytes s k := by
  have htrial : xorBytes (bytesAt s 0x100C 2048) (cypher k 2048) = trialBytes s k := by
    rw [cypher_eq_map, xorBytes, bytesAt, List.zipWith_map, List.zipWith_self]
    exact List.map_congr_left fun i hi => by rw [getD_cypher k (List.mem_range.mp hi)]
  rw [candidate, secbuf, slice_bytesAt s (by decide), slice_bytesAt s (by decide)]
  exact congrArg (headerBytes s ++ ·) htrial

theorem trial_secbuf_iff (s : State) (k : Seed) : trial Config.edc (secbuf s) k = true ↔ passes s k := by
  rw [trial_iff, candidate_secbuf_cypher, trailing_secbuf]
  rfl

theorem trial_secbuf_eq_false_iff (s : State) (k : Seed) : trial Config.edc (secbuf s) k = false ↔ ¬ passes s k := by
  rw [← trial_secbuf_iff, Bool.not_eq_true]

/-! ### The search -/

section
variable (p : EdcParams) (img : List Byte)

/-- The search gives the lowest seed whose trial passes (43_search_session.md R181). -/
theorem searchFn_eq_some_iff (k : Seed) :
    searchFn p img = some k ↔ trial p img k = true ∧ ∀ j : Seed, j.toNat < k.toNat → trial p img j = false := by
  rw [searchFn, Option.map_eq_some_iff]
  constructor
  · rintro ⟨n, hn, rfl⟩
    obtain ⟨hpass, hmem, hlow⟩ := List.find?_range_eq_some.mp hn
    refine ⟨hpass, fun j hj => ?_⟩
    rw [BitVec.toNat_ofNat, Nat.mod_eq_of_lt (List.mem_range.mp hmem)] at hj
    simpa using hlow j.toNat hj
  · rintro ⟨hpass, hlow⟩
    refine ⟨k.toNat, List.find?_range_eq_some.mpr ⟨by simpa using hpass, List.mem_range.mpr k.isLt, fun n hn => ?_⟩, by simp⟩
    rw [Bool.not_eq_true', hlow (BitVec.ofNat 15 n)]
    exact (Nat.mod_le n _).trans_lt hn

/-- The search ends in NotFound when all 0x8000 trials fail (43_search_session.md R181). -/
theorem searchFn_eq_none_iff : searchFn p img = none ↔ ∀ k : Seed, trial p img k = false := by
  rw [searchFn, Option.map_eq_none_iff, List.find?_range_eq_none]
  constructor
  · exact fun h k => by simpa using h k.toNat k.isLt
  · exact fun h n _ => by rw [h]; rfl

end

/-! ### What the commands do -/

section
variable (s : State)

theorem exec_nop : exec (.nop 0) s = .next (completed .ok s) := rfl

theorem exec_clearSession :
    exec (.clearSession 0) s = .next (completed .ok { s with seed := 0, seedValid := false, scanCount := 0 }) := rfl

end

section
variable {s : State} (seed : Seed)

theorem exec_setSeed (h : s.seedValid = false) :
    exec (.setSeed 0 0 seed) s = .next (completed .ok (acceptSeed seed s)) :=
  exec_of_bodyOf rfl (setSeedBody_accepts seed s h)

theorem exec_setSeed_inSession (h : s.seedValid = true) :
    exec (.setSeed 0 0 seed) s = .next (completed .invalidArgument s) :=
  exec_of_bodyOf rfl (setSeedBody_inSession seed s h)

end

/-- An accepted seed's keystream fills KSBUF. -/
theorem acceptSeed_get_ksbuf (seed : Seed) (s : State) {i : Nat} (hi : i < 2048) :
    (acceptSeed seed s).mem.get (0x2000 + i) = (cypher seed 2048)[i]? := by
  have hi' : i < (cypher seed 2048).length := by rwa [cypher_length]
  exact (get_setBlock_of_mem s.mem ksBase _ i hi').trans (List.getElem?_eq_getElem hi').symm

/-- An accepted seed's keystream fills nothing but KSBUF. -/
theorem acceptSeed_get_of_not_ksbuf (seed : Seed) (s : State) {a : Nat} (ha : ¬ (0x2000 ≤ a ∧ a < 0x2800)) :
    (acceptSeed seed s).mem.get a = s.mem.get a :=
  get_setBlock_of_not_mem s.mem ksBase _ a (by rwa [cypher_length])

/-- SCAN_COUNT counts the trials from seed 0 to the one that passed (43_search_session.md R184). -/
theorem scanCount_found (k : Seed) : (k.setWidth 16 + 1 : BitVec 16) = BitVec.ofNat 16 (k.toNat + 1) := by
  rw [BitVec.ofNat_add, BitVec.ofNat_toNat]
  rfl

end Sys2Proof.Machine

namespace Sys2Proof.Claims
open Sys2Proof.Machine

/-- Settles O35: a trial's decode is Ok on a matching checksum, and the search takes the seeds in rising order. -/
theorem searchGivesTheLowestSeed : Obligations.SearchGivesTheLowestSeed := fun p img =>
  ⟨fun _ => rfl, trial_iff p img, searchFn_eq_some_iff p img, searchFn_eq_none_iff p img⟩

/-- Settles O15: a trial on SECBUF is `passes`, so the outcomes are those of `searchFn`. -/
theorem searchCommand : Obligations.SearchCommand := by
  refine ⟨rfl, fun s k hv hpass hlow => ?_, fun s hv hnone => ?_, fun s => exec_search_inSession,
    fun _ s h => exec_illFormed (i := .search _) rfl (formatNLegal_eq_false h) s⟩
  · have hf : searchFn Config.edc (secbuf s) = some k := (searchFn_eq_some_iff _ _ k).mpr
      ⟨(trial_secbuf_iff s k).mpr hpass, fun j hj => (trial_secbuf_eq_false_iff s j).mpr (hlow j hj)⟩
    refine ⟨_, exec_search_found hv hf, ?_, fun _ => acceptSeed_get_ksbuf k s, fun _ => acceptSeed_get_of_not_ksbuf k s⟩
    rw [scanCount_found]
    rfl
  · exact exec_search_notFound hv
      ((searchFn_eq_none_iff _ _).mpr fun k => (trial_secbuf_eq_false_iff s k).mpr (hnone k))

/-- Settles O16: SET_SEED and a SEARCH that finds a seed accept it by the same writes. -/
theorem setSeedCommand : Obligations.SetSeedCommand := by
  refine ⟨fun seed => by rw [← encode_setSeed, decode_encode],
    fun seed s hv => ⟨_, exec_setSeed seed hv, rfl, fun _ => acceptSeed_get_ksbuf seed s,
      fun _ => acceptSeed_get_of_not_ksbuf seed s⟩,
    fun seed s => exec_setSeed_inSession seed,
    fun _ _ _ s h => exec_illFormed (i := .setSeed _ _ _) rfl (formatSLegal_eq_false h) s, fun s t hv h hok => ?_, rfl,
    cypher_zeroSeed 2048⟩
  cases hf : searchFn Config.edc (secbuf s) with
  | none =>
    rw [exec_search_notFound hv hf] at h
    cases h
    cases hok
  | some seed =>
    rw [exec_search_found hv hf] at h
    cases h
    exact exec_setSeed seed hv

/-- Settles O6: the rule writes nothing. -/
theorem nopCommand : Obligations.NopCommand :=
  ⟨rfl, exec_nop, rfl, rfl, fun _ s h => exec_illFormed (i := .nop _) rfl (formatNLegal_eq_false h) s⟩

/-- Settles O17: the rule writes three zeros, which a second run writes again. -/
theorem clearSessionCommand : Obligations.ClearSessionCommand := by
  refine ⟨rfl, exec_clearSession, fun _ s h => exec_illFormed (i := .clearSession _) rfl (formatNLegal_eq_false h) s,
    fun s t u ht hu => ?_, rfl, rfl, rfl⟩
  rw [exec_clearSession] at ht hu
  cases ht
  cases hu
  rfl

end Sys2Proof.Claims
end

section
/-! PROOF. Which seeds pass a sample (43_search_session.md R185). A trial compares a linear map of the seed with a value of the sample;
under CAND that map is injective. Its columns are computed by squaring the map of one keystream byte eleven times, and sixteen bits
of its value give the seed back. -/

namespace Sys2Proof.Machine
open Sys2Proof.Claims

/-! ### A trial as a linear map of the seed -/

/-- With EDC_INIT and EDC_XOROUT zero, zeros in front of a sequence do not count. -/
theorem edc_zeros_append {p : EdcParams} (hinit : p.init = 0) (hout : p.xorout = 0) (n : Nat) (d : List Byte) :
    edc p (zeros n ++ d) = edcChange p d := by
  rw [edc, hinit, edcFold_append, edcFold_zeroBytes, edcFinal_eq, hout]
  exact BitVec.xor_zero

/-- A slice is its first part and the rest. -/
theorem slice_append_slice (bs : List Byte) {a b c : Nat} (hab : a ≤ b) (hbc : b ≤ c) :
    slice bs a b ++ slice bs b c = slice bs a c := by
  have hlen : c - a = b - a + (c - b) := by omega
  rw [slice, slice, slice, hlen, List.take_add, List.drop_drop, Nat.add_sub_cancel' hab]

theorem eq_xor_iff (a b c : Word) : a ^^^ b = c ↔ b = a ^^^ c := by
  rw [← BitVec.xor_right_inj a, ← BitVec.xor_assoc, BitVec.xor_self, BitVec.zero_xor]

/-- A trial compares what the keystream changes with what the sample's checksum lacks (43_search_session.md R185). -/
theorem trial_iff_edcChange (p : EdcParams) {img : List Byte} (hlen : img.length = 2064) (k : Seed) :
    trial p img k = true ↔ edcChange p (cypher k 2048) = edc p (slice img 0 edcSpan) ^^^ trailing img := by
  have hpay : (slice img hdrLen edcSpan).length = (cypher k 2048).length := by
    rw [cypher_length, slice, List.length_take, List.length_drop, hlen]
    rfl
  rw [trial_iff, candidate, edc_append_xorBytes p _ hpay, slice_append_slice img (by decide) (by decide), eq_xor_iff]

theorem edcChange_cypher_xor (p : EdcParams) (a b : Seed) (n : Nat) :
    edcChange p (cypher (a ^^^ b) n) = edcChange p (cypher a n) ^^^ edcChange p (cypher b n) := by
  rw [cypher_xor, edcChange_xorBytes p (by rw [cypher_length, cypher_length])]

/-! ### Linear maps by their columns -/

/-- The XOR of the columns at the set bits of x, where the first column stands for bit k. -/
def xorColumns {v w : Nat} (x : BitVec w) : Nat → List (BitVec v) → BitVec v
  | _, [] => 0
  | k, c :: cs => if x.getLsbD k then c ^^^ xorColumns x (k + 1) cs else xorColumns x (k + 1) cs

/-- The values of a map at the words with one bit set. -/
def columns {v w : Nat} (f : BitVec w → BitVec v) : List (BitVec v) := (List.range w).map fun i => f (BitVec.twoPow w i)

/-- The columns of a linear map taken twice. -/
def squareColumns {w : Nat} (cs : List (BitVec w)) : List (BitVec w) := cs.map fun c => xorColumns c 0 cs

theorem xorColumns_xor {v w : Nat} (x y : BitVec w) (k : Nat) (cs : List (BitVec v)) :
    xorColumns (x ^^^ y) k cs = xorColumns x k cs ^^^ xorColumns y k cs := by
  induction cs generalizing k with
  | nil => exact BitVec.xor_zero.symm
  | cons c cs ih =>
    rw [xorColumns, xorColumns, xorColumns, BitVec.getLsbD_xor, ih]
    generalize xorColumns x (k + 1) cs = a, xorColumns y (k + 1) cs = b
    have hright : c ^^^ (a ^^^ b) = a ^^^ (c ^^^ b) := by ac_rfl
    have hboth : a ^^^ b = c ^^^ a ^^^ (c ^^^ b) := by
      rw [← BitVec.zero_xor (x := a ^^^ b), ← BitVec.xor_self (x := c)]
      ac_rfl
    cases x.getLsbD k <;> cases y.getLsbD k
    · rfl
    · exact hright
    · exact (BitVec.xor_assoc c a b).symm
    · exact hboth

/-- The bits of a word from k on: bit k, if it is set, and those above it. -/
theorem highBits_eq_ite {w : Nat} (x : BitVec w) (k : Nat) :
    x >>> k <<< k = if x.getLsbD k then BitVec.twoPow w k ^^^ x >>> (k + 1) <<< (k + 1) else x >>> (k + 1) <<< (k + 1) := by
  have hbit : ∀ n j, j < w → (x >>> n <<< n).getLsbD j = (decide (n ≤ j) && x.getLsbD j) := by
    intro n j hj
    by_cases h : n ≤ j
    · simp [hj, h, -BitVec.getLsbD_eq_getElem]
    · simp [h, -BitVec.getLsbD_eq_getElem]
  apply BitVec.eq_of_getLsbD_eq
  intro j hj
  rw [hbit k j hj]
  obtain h | rfl | h := Nat.lt_trichotomy j k
  · have hk : ¬ k ≤ j := by omega
    have hne : ¬ k = j := by omega
    split <;> simp [hbit _ j hj, hk, hne, h.le, -BitVec.getLsbD_eq_getElem]
  · split <;> simp [*, -BitVec.getLsbD_eq_getElem]
  · have hne : ¬ k = j := by omega
    split <;> simp [hbit _ j hj, hne, h, h.le, -BitVec.getLsbD_eq_getElem]

section
variable {v w : Nat} {f : BitVec w → BitVec v} (hf : ∀ x y, f (x ^^^ y) = f x ^^^ f y)
include hf

theorem xorColumns_range' (x : BitVec w) {k n : Nat} (h : k + n = w) :
    xorColumns x k ((List.range' k n).map fun i => f (BitVec.twoPow w i)) = f (x >>> k <<< k) := by
  induction n generalizing k with
  | zero =>
    have hzero : x >>> k <<< k = x ^^^ x := by
      rw [BitVec.xor_self, BitVec.ushiftRight_eq_zero (show w ≤ k by omega), BitVec.zero_shiftLeft]
    rw [hzero, hf, BitVec.xor_self]
    rfl
  | succ n ih =>
    rw [List.range'_succ, List.map_cons, xorColumns, ih (by omega), ← hf, ← apply_ite f, ← highBits_eq_ite]

/-- A linear map is given by its columns. -/
theorem xorColumns_columns (x : BitVec w) : xorColumns x 0 (columns f) = f x := by
  rw [columns, List.range_eq_range', xorColumns_range' hf x (Nat.zero_add w), BitVec.ushiftRight_zero, BitVec.shiftLeft_zero]

end

/-- Two linear maps with the same columns are the same. -/
theorem eq_of_columns_eq {v w : Nat} {f g : BitVec w → BitVec v} (hf : ∀ x y, f (x ^^^ y) = f x ^^^ f y)
    (hg : ∀ x y, g (x ^^^ y) = g x ^^^ g y) (h : columns f = columns g) (x : BitVec w) : f x = g x := by
  rw [← xorColumns_columns hf, h, xorColumns_columns hg]

section
variable {w : Nat} {f : BitVec w → BitVec w} (hf : ∀ x y, f (x ^^^ y) = f x ^^^ f y)
include hf

theorem squareColumns_columns : squareColumns (columns f) = columns (f ∘ f) := by
  rw [squareColumns, columns, List.map_map, columns]
  exact List.map_congr_left fun i _ => xorColumns_columns hf _

/-- The columns of a linear map taken 2^k times. -/
theorem columns_iterate (k : Nat) : columns f^[2 ^ k] = squareColumns^[k] (columns f) := by
  induction k with
  | zero => rfl
  | succ k ih =>
    rw [Function.iterate_succ_apply', ← ih, squareColumns_columns (Function.Semiconj₂.iterate hf _),
      ← Function.iterate_add, ← Nat.two_mul, Nat.pow_succ']

end

/-! ### The map of one keystream byte -/

/-- The LFSR state, in the high bits, and the accumulator, after one keystream byte (40_lfsr.md R101, 41_edc.md R131). -/
def keystreamByte (p : EdcParams) (x : BitVec 47) : BitVec 47 :=
  (byteStep (x.extractLsb' 32 15)).2 ++ edcStep p (x.extractLsb' 0 32) (byteStep (x.extractLsb' 32 15)).1

theorem byteStep_xor (a b : Seed) :
    (byteStep (a ^^^ b)).1 = (byteStep a).1 ^^^ (byteStep b).1 ∧ (byteStep (a ^^^ b)).2 = (byteStep a).2 ^^^ (byteStep b).2 := by
  simp only [byteStep_fst, byteStep_snd, BitVec.extractLsb'_xor, lfsrAfter_xor, and_self]

theorem keystreamByte_xor (p : EdcParams) (x y : BitVec 47) :
    keystreamByte p (x ^^^ y) = keystreamByte p x ^^^ keystreamByte p y := by
  obtain ⟨hfst, hsnd⟩ := byteStep_xor (x.extractLsb' 32 15) (y.extractLsb' 32 15)
  rw [keystreamByte, BitVec.extractLsb'_xor, BitVec.extractLsb'_xor, hfst, hsnd, edcStep_xor, ← BitVec.xor_append]
  rfl

theorem keystreamByte_append (p : EdcParams) (r : Seed) (a : Word) :
    keystreamByte p (r ++ a) = (byteStep r).2 ++ edcStep p a (byteStep r).1 := by
  rw [keystreamByte, BitVec.extractLsb'_append_eq_left, BitVec.extractLsb'_append_eq_right]

theorem keystreamByte_iterate (p : EdcParams) (r : Seed) (a : Word) (n : Nat) :
    (keystreamByte p)^[n] (r ++ a) = cypherState r n ++ edcFold p a (cypher r n) := by
  induction n generalizing r a with
  | zero => rfl
  | succ n ih => rw [Function.iterate_succ_apply, keystreamByte_append, ih]; rfl

/-- The checksum of a keystream of 2^k bytes, from the columns of the byte's map. -/
theorem edcFold_cypher_eq_xorColumns (p : EdcParams) (r : Seed) {n k : Nat} (hn : n = 2 ^ k) :
    edcFold p 0#32 (cypher r n) =
      (xorColumns (r ++ 0#32) 0 (squareColumns^[k] (columns (keystreamByte p)))).extractLsb' 0 32 := by
  have hlin := keystreamByte_xor p
  rw [hn, ← columns_iterate hlin, xorColumns_columns (Function.Semiconj₂.iterate hlin _), keystreamByte_iterate,
    BitVec.extractLsb'_append_eq_right]

/-! ### Under CAND the seed can be read off -/

theorem edcChange_cand (d : List Byte) : edcChange cand d = edcFold cand 0#32 d := rfl

/-- For each of the low 16 bits of the checksum of 2048 keystream bytes under CAND, what it tells of the seed. -/
def candSeedColumns : List Seed :=
  [0x2B49, 0x7769, 0x0AD2, 0x15A4, 0x0AB2, 0x689F, 0x14C4, 0x5472, 0x4CE4, 0x0033, 0x7D9D, 0x3EC1, 0x2183, 0x62FD, 0x0000, 0x5C00]

/-- The seed that the checksum of its 2048 keystream bytes under CAND gives back. -/
def candSeed (v : Word) : Seed := xorColumns v 0 candSeedColumns

theorem candSeed_edcChange (k : Seed) : candSeed (edcChange cand (cypher k 2048)) = k := by
  have hcolumns : columns (fun k => candSeed (edcChange cand (cypher k 2048))) = columns fun k => k := by
    have hsum : ∀ k, edcChange cand (cypher k 2048) =
        (xorColumns (k ++ 0#32) 0 (squareColumns^[11] (columns (keystreamByte cand)))).extractLsb' 0 32 :=
      fun k => by rw [edcChange_cand, edcFold_cypher_eq_xorColumns cand k (n := 2048) (k := 11) rfl]
    simp only [hsum]
    decide +kernel
  refine eq_of_columns_eq (fun a b => ?_) (fun _ _ => rfl) hcolumns k
  rw [edcChange_cypher_xor]
  exact xorColumns_xor _ _ 0 candSeedColumns

end Sys2Proof.Machine

namespace Sys2Proof.Claims
open Sys2Proof.Machine

/-- Settles O36: the keystream changes the checksum by a linear function of the seed, from whose value under CAND `candSeed` gives the
seed back. -/
theorem candidateAcceptsAtMostOneSeed : Obligations.CandidateAcceptsAtMostOneSeed := by
  refine ⟨fun p img k hinit hout hlen => ?_, fun p a b hinit hout => ?_, fun img a b hlen ha hb => ?_⟩
  · rw [trial_iff_edcChange p hlen, edc_zeros_append hinit hout]
    rfl
  · simp only [edc_zeros_append hinit hout, edcChange_cypher_xor]
  · have hsum := ((trial_iff_edcChange cand hlen a).mp ha).trans ((trial_iff_edcChange cand hlen b).mp hb).symm
    rw [← candSeed_edcChange a, hsum, candSeed_edcChange]

end Sys2Proof.Claims
end

section
/-! PROOF. How commands complete: the result codes with their conditions and what each leaves, the interrupt line, OVERRUN, and that
the step runs the latched command (60_exceptions.md R210 to R215). -/

namespace Sys2Proof.Machine
open Sys2Proof.Claims

/-! ### The conditions of the result codes -/

/-- The words with an illegal field are those of the ill-formed commands (30_encoding.md R89). -/
theorem badFields_encode_iff (i : Instr) : badFields (encode i) ↔ i.isReserved = false ∧ i.wf = false := by
  have hres := le_opOf_iff_isReserved (encode i)
  have hwf := wf_decode_iff (encode i)
  rw [decode_encode] at hres hwf
  rw [← Bool.not_eq_true, ← Bool.not_eq_true, hwf, ← hres, Nat.not_le]
  exact ⟨fun hbad => ⟨opOf_lt_of_badFields hbad, fun hgood => hgood.2 hbad⟩,
    fun ⟨hop, hnot⟩ => by_contra fun hgood => hnot ⟨hop, hgood⟩⟩

/-- The search of the sample in SECBUF ends in NotFound when no seed passes it (43_search_session.md R181). -/
theorem searchFn_secbuf_eq_none_iff (s : State) : searchFn Config.edc (secbuf s) = none ↔ ∀ k, ¬ passes s k :=
  (searchFn_eq_none_iff _ _).trans (forall_congr' (trial_secbuf_eq_false_iff s))

/-- DECODE is rejected unless KSBUF holds a whole keystream (42_decode.md R161). -/
theorem exec_decodeSector_of_ksLen_ne {s : State} (hlen : s.ksLen ≠ 2048) :
    exec (.decodeSector 0) s = .next (completed .invalidArgument s) :=
  exec_decodeSector_short s fun e => hlen (BitVec.eq_of_toNat_eq e)

/-! ### Every completion by its result code -/

/-- How a command completes from s, by the order of the checks (60_exceptions.md R211): each failing outcome with its condition and
all it leaves. -/
inductive Completion (s : State) : Instr → State → Prop where
  /-- A reserved opcode. -/
  | illegal (low : BitVec 30) : Completion s (.reserved low) (completed .illegalCommand s)
  /-- A field that is not legal. -/
  | illFormed (i : Instr) (hr : i.isReserved = false) (hw : i.wf = false) : Completion s i (completed .invalidArgument s)
  /-- DECODE without a whole keystream in KSBUF. -/
  | short (hlen : s.ksLen ≠ 2048) : Completion s (.decodeSector 0) (completed .invalidArgument s)
  /-- SEARCH or SET_SEED in a session. -/
  | inSession (i : Instr) (hv : s.seedValid = true) (hi : i = .search 0 ∨ ∃ seed, i = .setSeed 0 0 seed) :
      Completion s i (completed .invalidArgument s)
  /-- DECODE with a checksum that does not match. -/
  | badChecksum (hlen : s.ksLen = 2048) (hsum : edc Config.edc (headerBytes s ++ plainBytes s) ≠ trailerValue s) :
      Completion s (.decodeSector 0) (completed .badChecksum { s with
        edcAcc := edcFold Config.edc Config.edc.init (headerBytes s ++ plainBytes s), matched := false })
  /-- SEARCH of a sample that no seed passes. -/
  | seedNotFound (hv : s.seedValid = false) (hnone : ∀ k, ¬ passes s k) :
      Completion s (.search 0) (completed .seedNotFound { s with matched := false, scanCount := 0x8000 })
  /-- Success. -/
  | ok (i : Instr) (t : State) (herr : t.err = .ok) : Completion s i t

section
variable {i : Instr} {s t : State}

/-- A command completes with one code. -/
theorem err_eq_of_exec {u : State} {e : Err} (hu : exec i s = .next (completed e u)) (h : exec i s = .next t) : t.err = e := by
  rw [hu] at h
  cases h
  rfl

/-- A legal command whose rule gives OK completes with OK. -/
theorem err_ok_of_bodyOf (hw : i.wf = true) (hb : (bodyOf i s).2 = .ok) (h : exec i s = .next t) : t.err = .ok :=
  err_eq_of_exec (exec_of_bodyOf (by rw [hw]; rfl) (Prod.ext rfl hb)) h

theorem completion_decodeSector (h : exec (.decodeSector 0) s = .next t) : Completion s (.decodeSector 0) t := by
  by_cases hlen : s.ksLen = 2048
  · by_cases hsum : edc Config.edc (headerBytes s ++ plainBytes s) = trailerValue s
    · exact .ok _ t (err_eq_of_exec (exec_decodeSector_ok hlen hsum) h)
    · rw [exec_decodeSector_badChecksum hlen hsum] at h
      cases h
      exact .badChecksum hlen hsum
  · rw [exec_decodeSector_of_ksLen_ne hlen] at h
    cases h
    exact .short hlen

theorem completion_search (h : exec (.search 0) s = .next t) : Completion s (.search 0) t := by
  cases hv : s.seedValid with
  | true =>
    rw [exec_search_inSession hv] at h
    cases h
    exact .inSession _ hv (.inl rfl)
  | false =>
    cases hf : searchFn Config.edc (secbuf s) with
    | some seed => exact .ok _ t (err_eq_of_exec (exec_search_found hv hf) h)
    | none =>
      rw [exec_search_notFound hv hf] at h
      cases h
      exact .seedNotFound hv ((searchFn_secbuf_eq_none_iff s).mp hf)

theorem completion_setSeed {seed : Seed} (h : exec (.setSeed 0 0 seed) s = .next t) : Completion s (.setSeed 0 0 seed) t := by
  cases hv : s.seedValid with
  | true =>
    rw [exec_setSeed_inSession seed hv] at h
    cases h
    exact .inSession _ hv (.inr ⟨seed, rfl⟩)
  | false => exact .ok _ t (err_eq_of_exec (exec_setSeed seed hv) h)

/-- Legal fields: only DECODE, SEARCH and SET_SEED can still fail. -/
theorem completion_of_wf (hw : i.wf = true) (h : exec i s = .next t) : Completion s i t := by
  cases i with
  | decodeSector mbz =>
    obtain rfl := (formatNLegal_iff mbz).mp hw
    exact completion_decodeSector h
  | search mbz =>
    obtain rfl := (formatNLegal_iff mbz).mp hw
    exact completion_search h
  | setSeed mbz seed15 seed =>
    obtain ⟨rfl, rfl⟩ := (formatSLegal_iff mbz seed15).mp hw
    exact completion_setSeed h
  | reserved low => cases hw
  | nop | lfsrLoad | lfsrStep | lfsrByte | genKs | edcClear | edcByte | edcSector | clearSession =>
    exact .ok _ t (err_ok_of_bodyOf hw rfl h)

/-- Every command, in the order of the checks (60_exceptions.md R211). -/
theorem completion_of_exec (h : exec i s = .next t) : Completion s i t := by
  cases hr : i.isReserved with
  | true =>
    obtain ⟨low, rfl⟩ := isReserved_iff.mp hr
    rw [exec_reserved] at h
    cases h
    exact .illegal low
  | false =>
    cases hw : i.wf with
    | true => exact completion_of_wf hw h
    | false =>
      rw [exec_illFormed hr hw] at h
      cases h
      exact .illFormed i hr hw

/-! ### When each code is raised -/

variable (h : exec i s = .next t)
include h

theorem err_illegalCommand_iff : t.err = .illegalCommand ↔ ∃ low, i = .reserved low := by
  constructor
  · intro he
    cases completion_of_exec h with
    | illegal low => exact ⟨low, rfl⟩
    | ok _ _ herr => cases herr.symm.trans he
    | _ => cases he
  · rintro ⟨low, rfl⟩
    exact err_eq_of_exec (exec_reserved low s) h

theorem err_invalidArgument_iff : t.err = .invalidArgument ↔
    badFields (encode i) ∨ (i = .decodeSector 0 ∧ s.ksLen ≠ 2048) ∨
    (s.seedValid = true ∧ (i = .search 0 ∨ ∃ seed, i = .setSeed 0 0 seed)) := by
  constructor
  · intro he
    cases completion_of_exec h with
    | illFormed _ hr hw => exact .inl ((badFields_encode_iff i).mpr ⟨hr, hw⟩)
    | short hlen => exact .inr (.inl ⟨rfl, hlen⟩)
    | inSession _ hv hi => exact .inr (.inr ⟨hv, hi⟩)
    | ok _ _ herr => cases herr.symm.trans he
    | _ => cases he
  · rintro (hbad | ⟨rfl, hlen⟩ | ⟨hv, rfl | ⟨seed, rfl⟩⟩)
    · obtain ⟨hr, hw⟩ := (badFields_encode_iff i).mp hbad
      exact err_eq_of_exec (exec_illFormed hr hw s) h
    · exact err_eq_of_exec (exec_decodeSector_of_ksLen_ne hlen) h
    · exact err_eq_of_exec (exec_search_inSession hv) h
    · exact err_eq_of_exec (exec_setSeed_inSession seed hv) h

theorem err_badChecksum_iff : t.err = .badChecksum ↔
    i = .decodeSector 0 ∧ s.ksLen = 2048 ∧ edc Config.edc (headerBytes s ++ plainBytes s) ≠ trailerValue s := by
  constructor
  · intro he
    cases completion_of_exec h with
    | badChecksum hlen hsum => exact ⟨rfl, hlen, hsum⟩
    | ok _ _ herr => cases herr.symm.trans he
    | _ => cases he
  · rintro ⟨rfl, hlen, hsum⟩
    exact err_eq_of_exec (exec_decodeSector_badChecksum hlen hsum) h

theorem err_seedNotFound_iff : t.err = .seedNotFound ↔ i = .search 0 ∧ s.seedValid = false ∧ ∀ k, ¬ passes s k := by
  constructor
  · intro he
    cases completion_of_exec h with
    | seedNotFound hv hnone => exact ⟨rfl, hv, hnone⟩
    | ok _ _ herr => cases herr.symm.trans he
    | _ => cases he
  · rintro ⟨rfl, hv, hnone⟩
    exact err_eq_of_exec (exec_search_notFound hv ((searchFn_secbuf_eq_none_iff s).mpr hnone)) h

/-- BAD_CHECKSUM records the checksum computed in EDC_ACC, from which EDC_OUT reads (60_exceptions.md R210). -/
theorem edcOut_of_badChecksum (he : t.err = .badChecksum) : edcOut t = edc Config.edc (headerBytes s ++ plainBytes s) := by
  obtain ⟨rfl, hlen, hsum⟩ := (err_badChecksum_iff h).mp he
  rw [exec_decodeSector_badChecksum hlen hsum] at h
  cases h
  rw [edcOut, completed, edc]

end

/-! ### The engine's turn -/

theorem engineTurn_idle {s : State} (hp : s.phase = .idle) : engineTurn s = .next s := by
  unfold engineTurn
  rw [hp]
  split <;> rfl

/-- With no event waiting the engine has its turn (70_reset_and_hazards.md R252). -/
theorem step_noEvent {s : State} (hi : s.inputs = []) : step s = engineTurn s := by rw [step, nextEvent, hi]

/-- The state in which a placed word has just been latched (30_encoding.md R80). -/
theorem withFetchWord_eq (s : State) {w : Nat} (hw : w < 2 ^ 32) : s.withFetchWord 32 w =
    { s with phase := .busy (BitVec.ofNat 32 w), cmd := BitVec.ofNat 32 w, done := false, inputs := [], rst := false } := by
  rw [State.withFetchWord, Nat.mod_eq_of_lt hw]
  rfl

end Sys2Proof.Machine

namespace Sys2Proof.Claims
open Sys2Proof.Machine

/-- Settles O37: with no event waiting, or its own first, the step is the engine's turn, which runs the word the engine holds. -/
theorem stepRunsTheLatchedCommand : Obligations.StepRunsTheLatchedCommand := by
  refine ⟨?_, fun s hp hi => (step_noEvent hi).trans (engineTurn_idle hp),
    fun s w hw => ⟨_, rfl, rfl, withFetchWord_eq s hw, (step_noEvent rfl).trans (engineTurn_busy _ _ rfl rfl)⟩⟩
  rintro s c _ hr hp rfl
  exact ⟨fun hi => (step_noEvent hi).trans (engineTurn_busy s c hr hp),
    fun rest hi => (step_event hi).trans (engineTurn_busy { s with inputs := rest } c hr hp)⟩

/-- Settles O19: every command completes in `completedState`, which keeps all but its results and the STATUS update. -/
theorem everyCommandCompletes : Obligations.EveryCommandCompletes := fun i s =>
  ⟨completedState i s, exec_eq_next i s, completedState_phase i s, completedState_done i s, completedState_cmd i s,
    completedState_overrun i s, completedState_irqEn i s, completedState_rst i s, completedState_inputs i s, completedState_reply i s,
    fun _ => completedState_get i s⟩

/-- Settles O21: each failing case of `Completion` names its whole next state. -/
theorem sideEffectsByOutcome : Obligations.SideEffectsByOutcome := by
  intro i s t h
  cases completion_of_exec h with
  | illegal low => exact ⟨fun _ => rfl, nofun, nofun, nofun⟩
  | illFormed | short | inSession => exact ⟨nofun, fun _ => rfl, nofun, nofun⟩
  | badChecksum hlen hsum => exact ⟨nofun, nofun, fun _ => by simp only [completed], nofun⟩
  | seedNotFound hv hnone => exact ⟨nofun, nofun, nofun, fun _ => rfl⟩
  | ok _ _ herr => rw [herr]; exact ⟨nofun, nofun, nofun, nofun⟩

/-- Settles O22: each code comes from its own cases of `Completion`, and no other case has that code. -/
theorem resultCodesAndTheirCommands : Obligations.ResultCodesAndTheirCommands := by
  refine ⟨rfl, rfl, rfl, rfl, rfl, fun i s t h => ⟨err_illegalCommand_iff h, err_invalidArgument_iff h, err_badChecksum_iff h,
    err_seedNotFound_iff h, edcOut_of_badChecksum h, fun he => ?_, ?_⟩⟩
  · obtain ⟨-, -, -, hleft⟩ := sideEffectsByOutcome i s t h
    rw [hleft he]
    rfl
  · obtain ⟨u, hu, -, -, hcmd, -⟩ := everyCommandCompletes i s
    cases hu.symm.trans h
    exact hcmd

/-- Settles O49: a completion sets DONE and keeps IRQ_EN, and each write says what it does to the two. -/
theorem interruptLine : Obligations.InterruptLine := by
  obtain ⟨hstatus, hirqEn⟩ := statusAndIrqEnWrites
  refine ⟨fun _ => rfl, fun i s t h => ?_, fun s c rest t hr hi hp h => ?_, fun s v rest t hr hi hv h => ?_,
    fun s v rest t hr hi h => ?_, fun _ _ => rfl⟩
  · obtain ⟨u, hu, -, hdone, -, -, hen, -⟩ := everyCommandCompletes i s
    cases hu.symm.trans h
    rw [irqLine, hdone, hen, Bool.true_and]
  · rw [step_issue hr hp hi] at h
    cases h
    rfl
  · rw [hstatus s v rest hr hi] at h
    cases h
    simp [irqLine, hv]
  · rw [hirqEn s v rest hr hi] at h
    cases h
    exact ⟨rfl, rfl⟩

/-- Settles O58: with RST released OVERRUN is cleared by the STATUS write and set by a dropped write alone, and under RST never set. -/
theorem overrunIsSticky : Obligations.OverrunIsSticky := by
  refine ⟨fun s t ho h => ?_, fun s t ho h ht => ?_⟩
  · cases hr : s.rst with
    | true => exact .inr (.inl rfl)
    | false =>
      by_cases ht : t.overrun = true
      · exact .inl ht
      · have hw := writer_of_overrun_ne (step_released hr h) (ho ▸ ht)
        rw [if_neg ht] at hw
        obtain ⟨v, ⟨rest, hi⟩, hv⟩ := hw
        exact .inr (.inr ⟨v, rest, hi, hv⟩)
  · cases hr : s.rst with
    | true =>
      rcases step_underReset hr h with e | ⟨rest, -, rfl⟩
      · rw [e] at ht; cases ho.symm.trans ht
      · cases ht
    | false =>
      cases step_released hr h with
      | drop c n off v rest hp hi hoff => exact ⟨⟨c, hp, hp⟩, rfl, rfl, rfl, rfl, rfl, n, off, v, rest, hi, hoff⟩
      | complete => rw [completedState_overrun] at ht; cases ho.symm.trans ht
      | status v rest hi => simp [ho] at ht
      | quiet | raise | issue | irqEn | store => cases ho.symm.trans ht

end Sys2Proof.Claims
end

section
/-! PROOF. What reset leaves, what a step does by the level of RST, and that the reset state meets the invariant
(70_reset_and_hazards.md R240 to R242). -/

namespace Sys2Proof.Machine

/-- Under RST the engine does nothing, with or without a running command (70_reset_and_hazards.md R240). -/
theorem engineTurn_underReset {s : State} (hr : s.rst = true) : engineTurn s = .next s := by
  rw [engineTurn, if_pos hr]

/-- An access under RST is not served, whatever it reaches: no bus error either (70_reset_and_hazards.md R240). -/
theorem step_access_underReset {s : State} {e : Event} {rest : List Event} (hr : s.rst = true) (hi : s.inputs = e :: rest)
    (he : (∃ n off, e = .read n off) ∨ ∃ n off v, e = .write n off v) :
    step s = .next { s with inputs := rest, reply := .unserved } := by
  rw [step_event hi]
  rcases he with ⟨n, off, rfl⟩ | ⟨n, off, v, rfl⟩ <;> rw [perform, if_pos hr]

/-- The release of RST leaves the reset state, whatever was running (70_reset_and_hazards.md R240). -/
theorem step_release {s : State} {rest : List Event} (hr : s.rst = true) (hi : s.inputs = .rst false :: rest) :
    step s = .next (releaseReset { s with inputs := rest }) := by
  rw [step_event hi, perform, if_pos hr]

end Sys2Proof.Machine

namespace Sys2Proof.Claims
open Sys2Proof.Machine

/-- Settles O50: every value is a field of the reset state, and the read of an empty memory finds no byte. -/
theorem resetValues : Obligations.ResetValues := by
  have hstatus : statusWord State.reset = 0 := by decide
  exact ⟨rfl, rfl, hstatus, rfl, rfl, rfl, rfl, rfl, rfl, rfl, rfl, rfl, rfl, fun _ => rfl, rfl⟩

/-- Settles O51: the event by event account of a step under RST; asserting RST needs no level before it. -/
theorem resetInput : Obligations.ResetInput :=
  ⟨fun _ _ hi => step_event hi,
    fun _ _ hr hi => step_release hr hi,
    fun _ n off _ hr hi => step_access_underReset hr hi (.inl ⟨n, off, rfl⟩),
    fun _ n off v _ hr hi => step_access_underReset hr hi (.inr ⟨n, off, v, rfl⟩),
    fun _ hr hi => (step_noEvent hi).trans (engineTurn_underReset hr),
    fun _ _ hr hi => (step_event hi).trans (engineTurn_underReset hr)⟩

/-- Settles O54: the release of RST leaves a state that meets the invariant, and it differs from the reset state in `draws` alone,
of which the invariant does not speak. -/
theorem resetMeetsTheInvariant : Obligations.ResetMeetsTheInvariant := { inv_releaseReset State.reset with }

end Sys2Proof.Claims
end
